-- ==== Sys2Proof/Word.lean ====
section
/-! DEFINITION. The word types of the machine (spec 00_scope.md R4, R5): everything is unsigned, bit 0 is the least
significant bit. -/

namespace Sys2Proof

/-- A register, a memory cell, a timer or an immediate `kk`: 8 bits (R10, R15, R16, R20, R63). -/
abbrev Byte := BitVec 8

/-- An instruction word, `pc`, `I` or a stack entry: 16 bits (R12, R13, R14, R60). -/
abbrev Word := BitVec 16

/-- A field `x`, `y` or `n` of an instruction word: 4 bits (R61). -/
abbrev Nibble := BitVec 4

/-- A field `nnn` of an instruction word, a byte address 0 to 4095: 12 bits (R61, R63). -/
abbrev Addr12 := BitVec 12

/-- The number of memory cells (R4, R40): addresses are 0 to 4095. -/
abbrev memSize : Nat := 4096

/-- Where a program image is loaded and where `pc` starts (R4, R26, R47). -/
abbrev programBase : Nat := 0x200

/-- Where the font table stands (R4, R48). -/
abbrev fontBase : Nat := 0x050

/-- The index of the flag register VF (R11). -/
abbrev vF : Nibble := 0xF#4

end Sys2Proof
end

