-- ==== Sys2Proof/Syntax.lean ====
section
/-! DEFINITION. The instructions: one constructor per row of spec/opcode_table.json, in the table's order
(30_encoding.md R66, R67). -/

namespace Sys2Proof

/-- The 33 instructions of R66 and the pseudo-instruction UNIMPL of R190. `x` and `y` are register indices, `kk` an
immediate byte, `nnn` a 12-bit address, `n` a row count (R61, R63). `shr` and `shl` carry the `y` field they ignore
(R69), so that an instruction determines its word. -/
inductive Instr where
  | cls                                -- 00E0 CLS
  | ret                                -- 00EE RET
  | jp     (nnn : Addr12)              -- 1nnn JP nnn
  | call   (nnn : Addr12)              -- 2nnn CALL nnn
  | seImm  (x : Nibble) (kk : Byte)    -- 3xkk SE Vx, kk
  | sneImm (x : Nibble) (kk : Byte)    -- 4xkk SNE Vx, kk
  | seReg  (x y : Nibble)              -- 5xy0 SE Vx, Vy
  | ldImm  (x : Nibble) (kk : Byte)    -- 6xkk LD Vx, kk
  | addImm (x : Nibble) (kk : Byte)    -- 7xkk ADD Vx, kk
  | ldReg  (x y : Nibble)              -- 8xy0 LD Vx, Vy
  | or     (x y : Nibble)              -- 8xy1 OR Vx, Vy
  | and    (x y : Nibble)              -- 8xy2 AND Vx, Vy
  | xor    (x y : Nibble)              -- 8xy3 XOR Vx, Vy
  | addReg (x y : Nibble)              -- 8xy4 ADD Vx, Vy
  | sub    (x y : Nibble)              -- 8xy5 SUB Vx, Vy
  | shr    (x y : Nibble)              -- 8xy6 SHR Vx
  | subn   (x y : Nibble)              -- 8xy7 SUBN Vx, Vy
  | shl    (x y : Nibble)              -- 8xyE SHL Vx
  | sneReg (x y : Nibble)              -- 9xy0 SNE Vx, Vy
  | ldI    (nnn : Addr12)              -- Annn LD I, nnn
  | rnd    (x : Nibble) (kk : Byte)    -- Cxkk RND Vx, kk
  | drw    (x y n : Nibble)            -- Dxyn DRW Vx, Vy, n
  | skp    (x : Nibble)                -- Ex9E SKP Vx
  | sknp   (x : Nibble)                -- ExA1 SKNP Vx
  | ldVxDt (x : Nibble)                -- Fx07 LD Vx, DT
  | ldVxK  (x : Nibble)                -- Fx0A LD Vx, K
  | ldDtVx (x : Nibble)                -- Fx15 LD DT, Vx
  | ldStVx (x : Nibble)                -- Fx18 LD ST, Vx
  | addI   (x : Nibble)                -- Fx1E ADD I, Vx
  | ldF    (x : Nibble)                -- Fx29 LD F, Vx
  | ldB    (x : Nibble)                -- Fx33 LD B, Vx
  | stRegs (x : Nibble)                -- Fx55 LD [I], Vx
  | ldRegs (x : Nibble)                -- Fx65 LD Vx, [I]
  | unimpl (w : Word)                  -- every other word UNIMPL
deriving DecidableEq, Repr

/-- The mnemonic of the instruction's row in spec/opcode_table.json, letter for letter. -/
def Instr.mnemonic : Instr → String
  | .cls        => "CLS"
  | .ret        => "RET"
  | .jp _       => "JP_nnn"
  | .call _     => "CALL_nnn"
  | .seImm _ _  => "SE_Vx__kk"
  | .sneImm _ _ => "SNE_Vx__kk"
  | .seReg _ _  => "SE_Vx__Vy"
  | .ldImm _ _  => "LD_Vx__kk"
  | .addImm _ _ => "ADD_Vx__kk"
  | .ldReg _ _  => "LD_Vx__Vy"
  | .or _ _     => "OR_Vx__Vy"
  | .and _ _    => "AND_Vx__Vy"
  | .xor _ _    => "XOR_Vx__Vy"
  | .addReg _ _ => "ADD_Vx__Vy"
  | .sub _ _    => "SUB_Vx__Vy"
  | .shr _ _    => "SHR_Vx"
  | .subn _ _   => "SUBN_Vx__Vy"
  | .shl _ _    => "SHL_Vx"
  | .sneReg _ _ => "SNE_Vx__Vy"
  | .ldI _      => "LD_I__nnn"
  | .rnd _ _    => "RND_Vx__kk"
  | .drw _ _ _  => "DRW_Vx__Vy__n"
  | .skp _      => "SKP_Vx"
  | .sknp _     => "SKNP_Vx"
  | .ldVxDt _   => "LD_Vx__DT"
  | .ldVxK _    => "LD_Vx__K"
  | .ldDtVx _   => "LD_DT__Vx"
  | .ldStVx _   => "LD_ST__Vx"
  | .addI _     => "ADD_I__Vx"
  | .ldF _      => "LD_F__Vx"
  | .ldB _      => "LD_B__Vx"
  | .stRegs _   => "LD__I___Vx"
  | .ldRegs _   => "LD_Vx___I"
  | .unimpl _   => "UNIMPL"

end Sys2Proof
end

