-- ==== Sys2Proof/WellFormed.lean ====
section
/-! DEFINITION. When an instruction stands for a word (30_encoding.md R64 to R67). The field types already bound every
operand (R63: every register index, immediate and address is valid); the one thing left to check is that UNIMPL's
word is one of the 25678 undefined words of R67. -/

namespace Sys2Proof

/-- R67's table, family by family: is the word `w` undefined? Families are read from bits 15 to 12. -/
def isUndefinedWord (w : Word) : Bool :=
  let family := w.toNat / 4096
  let n := w.toNat % 16
  let kk := w.toNat % 256
  (family == 0x0 && w != 0x00E0#16 && w != 0x00EE#16) ||
  (family == 0x5 && n != 0) ||
  (family == 0x8 && [0x8, 0x9, 0xA, 0xB, 0xC, 0xD, 0xF].contains n) ||
  (family == 0x9 && n != 0) ||
  (family == 0xB) ||
  (family == 0xE && kk != 0x9E && kk != 0xA1) ||
  (family == 0xF && !([0x07, 0x0A, 0x15, 0x18, 0x1E, 0x29, 0x33, 0x55, 0x65].contains kk))

/-- An instruction is well formed when it is the meaning of some word: UNIMPL must carry an undefined word; every
other constructor is well formed at every value of its fields. -/
def Instr.wellFormed : Instr → Bool
  | .unimpl w   => isUndefinedWord w
  | .cls | .ret | .jp _ | .call _ | .seImm _ _ | .sneImm _ _ | .seReg _ _ | .ldImm _ _ | .addImm _ _ | .ldReg _ _
  | .or _ _ | .and _ _ | .xor _ _ | .addReg _ _ | .sub _ _ | .shr _ _ | .subn _ _ | .shl _ _ | .sneReg _ _ | .ldI _
  | .rnd _ _ | .drw _ _ _ | .skp _ | .sknp _ | .ldVxDt _ | .ldVxK _ | .ldDtVx _ | .ldStVx _ | .addI _ | .ldF _
  | .ldB _ | .stRegs _ | .ldRegs _ => true

end Sys2Proof
end

