-- ==== Sys2Proof/Decode.lean ====
section
/-! DEFINITION. From words to instructions and back (30_encoding.md). The decoder follows R64's pseudocode, the encoder
R62's formats; `opcodeRows` is R66's table. -/

namespace Sys2Proof

/-! ## Fields (R61) -/

/-- Bits 15:12, the family. -/
def fieldOp (w : Word) : Nibble := w.extractLsb' 12 4

/-- Bits 11:8, the first register. -/
def fieldX (w : Word) : Nibble := w.extractLsb' 8 4

/-- Bits 7:4, the second register. -/
def fieldY (w : Word) : Nibble := w.extractLsb' 4 4

/-- Bits 3:0, the sub-opcode or the sprite height. -/
def fieldN (w : Word) : Nibble := w.extractLsb' 0 4

/-- Bits 7:0, the immediate byte or the sub-opcode. -/
def fieldKk (w : Word) : Byte := w.extractLsb' 0 8

/-- Bits 11:0, the address. -/
def fieldNnn (w : Word) : Addr12 := w.extractLsb' 0 12

/-! ## The decoder (R64, R65) -/

/-- Family 0: the whole word is compared. -/
def decodeFamily0 (w : Word) : Instr :=
  if w = 0x00E0#16 then .cls
  else if w = 0x00EE#16 then .ret
  else .unimpl w

/-- Families 5 and 9: the low nibble must be 0. -/
def decodeLowZero (w : Word) (i : Instr) : Instr :=
  if fieldN w = 0#4 then i else .unimpl w

/-- Family 8: the low nibble selects. -/
def decodeFamily8 (w : Word) : Instr :=
  let x := fieldX w
  let y := fieldY w
  match (fieldN w).toNat with
  | 0x0 => .ldReg x y
  | 0x1 => .or x y
  | 0x2 => .and x y
  | 0x3 => .xor x y
  | 0x4 => .addReg x y
  | 0x5 => .sub x y
  | 0x6 => .shr x y
  | 0x7 => .subn x y
  | 0xE => .shl x y
  | _   => .unimpl w

/-- Family E: the low byte selects. -/
def decodeFamilyE (w : Word) : Instr :=
  match (fieldKk w).toNat with
  | 0x9E => .skp (fieldX w)
  | 0xA1 => .sknp (fieldX w)
  | _    => .unimpl w

/-- Family F: the low byte selects. -/
def decodeFamilyF (w : Word) : Instr :=
  let x := fieldX w
  match (fieldKk w).toNat with
  | 0x07 => .ldVxDt x
  | 0x0A => .ldVxK x
  | 0x15 => .ldDtVx x
  | 0x18 => .ldStVx x
  | 0x1E => .addI x
  | 0x29 => .ldF x
  | 0x33 => .ldB x
  | 0x55 => .stRegs x
  | 0x65 => .ldRegs x
  | _    => .unimpl w

/-- R64: the instruction a word stands for. Total: a word no row of R66 matches is UNIMPL (R67, R190). -/
def decodeWord (w : Word) : Instr :=
  let x := fieldX w
  let y := fieldY w
  let kk := fieldKk w
  let nnn := fieldNnn w
  match (fieldOp w).toNat with
  | 0x0 => decodeFamily0 w
  | 0x1 => .jp nnn
  | 0x2 => .call nnn
  | 0x3 => .seImm x kk
  | 0x4 => .sneImm x kk
  | 0x5 => decodeLowZero w (.seReg x y)
  | 0x6 => .ldImm x kk
  | 0x7 => .addImm x kk
  | 0x8 => decodeFamily8 w
  | 0x9 => decodeLowZero w (.sneReg x y)
  | 0xA => .ldI nnn
  | 0xB => .unimpl w
  | 0xC => .rnd x kk
  | 0xD => .drw x y (fieldN w)
  | 0xE => decodeFamilyE w
  | _   => decodeFamilyF w

/-- Fetch order (20_memory.md R46): the byte at the lower address is the high half of the word. -/
def wordOfBytes (hi lo : Byte) : Word := hi ++ lo

/-- The two bytes of a word as memory holds them, lower address first (R46). -/
def bytesOfWord (w : Word) : Byte × Byte := (w.extractLsb' 8 8, w.extractLsb' 0 8)

/-- Why a byte sequence holds no instruction: an instruction is exactly 2 bytes (R60). -/
inductive DecodeError where
  | truncated (have_ : Nat)
deriving DecidableEq, Repr

/-- The instruction at the front of a byte sequence, with the bytes after it. Fewer than two bytes are rejected by
name; any two bytes decode. -/
def decodeBytes : List Byte → Except DecodeError (Instr × List Byte)
  | hi :: lo :: rest => .ok (decodeWord (wordOfBytes hi lo), rest)
  | [_]              => .error (.truncated 1)
  | []               => .error (.truncated 0)

/-! ## The encoder (R62) -/

/-- Format A: op, nnn. -/
def formatA (op : Nibble) (nnn : Addr12) : Word := op ++ nnn

/-- Formats I and X: op, x, kk (in format X the low byte is the sub-opcode). -/
def formatI (op x : Nibble) (kk : Byte) : Word := op ++ x ++ kk

/-- Formats R and S: op, x, y, n (in format R the low nibble is the sub-opcode). -/
def formatR (op x y n : Nibble) : Word := op ++ x ++ y ++ n

/-- The word of an instruction, from R66's patterns. -/
def encode : Instr → Word
  | .cls         => 0x00E0#16
  | .ret         => 0x00EE#16
  | .jp nnn      => formatA 0x1#4 nnn
  | .call nnn    => formatA 0x2#4 nnn
  | .seImm x kk  => formatI 0x3#4 x kk
  | .sneImm x kk => formatI 0x4#4 x kk
  | .seReg x y   => formatR 0x5#4 x y 0x0#4
  | .ldImm x kk  => formatI 0x6#4 x kk
  | .addImm x kk => formatI 0x7#4 x kk
  | .ldReg x y   => formatR 0x8#4 x y 0x0#4
  | .or x y      => formatR 0x8#4 x y 0x1#4
  | .and x y     => formatR 0x8#4 x y 0x2#4
  | .xor x y     => formatR 0x8#4 x y 0x3#4
  | .addReg x y  => formatR 0x8#4 x y 0x4#4
  | .sub x y     => formatR 0x8#4 x y 0x5#4
  | .shr x y     => formatR 0x8#4 x y 0x6#4
  | .subn x y    => formatR 0x8#4 x y 0x7#4
  | .shl x y     => formatR 0x8#4 x y 0xE#4
  | .sneReg x y  => formatR 0x9#4 x y 0x0#4
  | .ldI nnn     => formatA 0xA#4 nnn
  | .rnd x kk    => formatI 0xC#4 x kk
  | .drw x y n   => formatR 0xD#4 x y n
  | .skp x       => formatI 0xE#4 x 0x9E#8
  | .sknp x      => formatI 0xE#4 x 0xA1#8
  | .ldVxDt x    => formatI 0xF#4 x 0x07#8
  | .ldVxK x     => formatI 0xF#4 x 0x0A#8
  | .ldDtVx x    => formatI 0xF#4 x 0x15#8
  | .ldStVx x    => formatI 0xF#4 x 0x18#8
  | .addI x      => formatI 0xF#4 x 0x1E#8
  | .ldF x       => formatI 0xF#4 x 0x29#8
  | .ldB x       => formatI 0xF#4 x 0x33#8
  | .stRegs x    => formatI 0xF#4 x 0x55#8
  | .ldRegs x    => formatI 0xF#4 x 0x65#8
  | .unimpl w    => w

/-! ## R66's table -/

/-- One row of R66's table: the row is selected exactly when `w &&& mask = pattern`. -/
structure OpcodeRow where
  mnemonic : String
  mask     : Word
  pattern  : Word
deriving DecidableEq, Repr

/-- Does the row select this word? -/
def rowSelects (r : OpcodeRow) (w : Word) : Bool := w &&& r.mask == r.pattern

/-- R66's table, rows 1 to 19. -/
def opcodeRowsLow : List OpcodeRow :=
  [⟨"CLS", 0xFFFF, 0x00E0⟩, ⟨"RET", 0xFFFF, 0x00EE⟩, ⟨"JP_nnn", 0xF000, 0x1000⟩, ⟨"CALL_nnn", 0xF000, 0x2000⟩,
   ⟨"SE_Vx__kk", 0xF000, 0x3000⟩, ⟨"SNE_Vx__kk", 0xF000, 0x4000⟩, ⟨"SE_Vx__Vy", 0xF00F, 0x5000⟩,
   ⟨"LD_Vx__kk", 0xF000, 0x6000⟩, ⟨"ADD_Vx__kk", 0xF000, 0x7000⟩, ⟨"LD_Vx__Vy", 0xF00F, 0x8000⟩,
   ⟨"OR_Vx__Vy", 0xF00F, 0x8001⟩, ⟨"AND_Vx__Vy", 0xF00F, 0x8002⟩, ⟨"XOR_Vx__Vy", 0xF00F, 0x8003⟩,
   ⟨"ADD_Vx__Vy", 0xF00F, 0x8004⟩, ⟨"SUB_Vx__Vy", 0xF00F, 0x8005⟩, ⟨"SHR_Vx", 0xF00F, 0x8006⟩,
   ⟨"SUBN_Vx__Vy", 0xF00F, 0x8007⟩, ⟨"SHL_Vx", 0xF00F, 0x800E⟩, ⟨"SNE_Vx__Vy", 0xF00F, 0x9000⟩]

/-- R66's table, rows 20 to 33. -/
def opcodeRowsHigh : List OpcodeRow :=
  [⟨"LD_I__nnn", 0xF000, 0xA000⟩, ⟨"RND_Vx__kk", 0xF000, 0xC000⟩, ⟨"DRW_Vx__Vy__n", 0xF000, 0xD000⟩,
   ⟨"SKP_Vx", 0xF0FF, 0xE09E⟩, ⟨"SKNP_Vx", 0xF0FF, 0xE0A1⟩, ⟨"LD_Vx__DT", 0xF0FF, 0xF007⟩,
   ⟨"LD_Vx__K", 0xF0FF, 0xF00A⟩, ⟨"LD_DT__Vx", 0xF0FF, 0xF015⟩, ⟨"LD_ST__Vx", 0xF0FF, 0xF018⟩,
   ⟨"ADD_I__Vx", 0xF0FF, 0xF01E⟩, ⟨"LD_F__Vx", 0xF0FF, 0xF029⟩, ⟨"LD_B__Vx", 0xF0FF, 0xF033⟩,
   ⟨"LD__I___Vx", 0xF0FF, 0xF055⟩, ⟨"LD_Vx___I", 0xF0FF, 0xF065⟩]

/-- R66's 33 rows; the fallback row UNIMPL (mask 0) is the outcome when none of them selects the word. -/
def opcodeRows : List OpcodeRow := opcodeRowsLow ++ opcodeRowsHigh

/-! ## The host's question -/

/-- The instruction the decoder reads from the instruction whose bits are `w`: bit 0 is the least significant bit of
the one 16-bit word, bits at and above `nbits` are 0, and the word lies in memory high byte first (R46). More than 16
bits are no instruction of this machine (R60). -/
def decodeTableWord (nbits w : Nat) : Option Instr :=
  if nbits ≤ 16 then
    let (hi, lo) := bytesOfWord (BitVec.ofNat 16 (w % 2 ^ nbits))
    match decodeBytes [hi, lo] with
    | .ok (i, _) => some i
    | .error _   => none
  else none

end Sys2Proof
end

