-- ==== Sys2Proof/Config.lean ====
section
/-! DEFINITION. What is fixed for one machine but left open by the spec (00_scope.md R4, 10_state.md R24): the two
parameters `TIMER_POLICY` and `FONT`, and the free byte of `RND`. -/

namespace Sys2Proof

/-- `TIMER_POLICY` (40_dispatcher_cycle.md R86): when the two timers count down. -/
inductive TimerPolicy where
  /-- R87, the default: step 5 of every cycle decrements the sound timer, or else the delay timer. -/
  | sharedSlotPerCycle
  /-- R88: the cycle leaves the timers alone; the host's `TimerTick` decrements both. -/
  | independentTick
deriving DecidableEq, Repr

/-- The 80 bytes `FONT[0..79]`: 16 glyphs of 5 bytes (20_memory.md R48). -/
abbrev Font := Vector Byte 80

/-- The parameters of one machine (R4's table, R24). They never change while it runs. State carries them as plain
data so that one `step` covers every choice (log entry 1). -/
structure Config where
  timerPolicy : TimerPolicy
  font        : Font
deriving DecidableEq, Repr

namespace Config

/-- The free input `draw()` of R160: the byte the k-th executed `RND` receives. It has no body, so nothing in Lean
knows a value of it: what is proved holds for every byte (log entry 4). -/
opaque randomByte : Nat → Byte

end Config

end Sys2Proof
end

