-- ==== Sys2Proof/Machine/Font.lean ====
section
/-! DEFINITION. The default parameters and what memory holds after reset (20_memory.md R48, 10_state.md R26). -/

namespace Sys2Proof

namespace Config

/-- Glyphs 0 to 3 of R48's table. -/
def glyphs0 : Vector Byte 20 :=
  #v[0xF0, 0x90, 0x90, 0x90, 0xF0, 0x20, 0x60, 0x20, 0x20, 0x70,
     0xF0, 0x10, 0xF0, 0x80, 0xF0, 0xF0, 0x10, 0xF0, 0x10, 0xF0]

/-- Glyphs 4 to 7 of R48's table. -/
def glyphs4 : Vector Byte 20 :=
  #v[0x90, 0x90, 0xF0, 0x10, 0x10, 0xF0, 0x80, 0xF0, 0x10, 0xF0,
     0xF0, 0x80, 0xF0, 0x90, 0xF0, 0xF0, 0x10, 0x20, 0x40, 0x40]

/-- Glyphs 8 to B of R48's table. -/
def glyphs8 : Vector Byte 20 :=
  #v[0xF0, 0x90, 0xF0, 0x90, 0xF0, 0xF0, 0x90, 0xF0, 0x10, 0xF0,
     0xF0, 0x90, 0xF0, 0x90, 0x90, 0xE0, 0x90, 0xE0, 0x90, 0xE0]

/-- Glyphs C to F of R48's table. -/
def glyphsC : Vector Byte 20 :=
  #v[0xF0, 0x80, 0x80, 0x80, 0xF0, 0xE0, 0x90, 0x90, 0x90, 0xE0,
     0xF0, 0x80, 0xF0, 0x80, 0xF0, 0xF0, 0x80, 0xF0, 0x80, 0x80]

/-- The default of `FONT`: the conventional hexadecimal font, as R48's table gives it (spec decision D19; log
entry 2). -/
def defaultFont : Font := glyphs0 ++ glyphs4 ++ glyphs8 ++ glyphsC

/-- The spec's defaults for both parameters (D4, D19; log entry 2). -/
def default : Config := ⟨.sharedSlotPerCycle, defaultFont⟩

/-- What the cell at address `a` holds after reset (10_state.md R26): the font byte in 0x050 to 0x09F, else 0. It is
also what an address that memory does not list reads as (log entry 3). -/
def background (c : Config) (a : Nat) : Byte :=
  if h : fontBase ≤ a ∧ a < fontBase + 80 then c.font[a - fontBase]'(by omega) else 0

end Config

end Sys2Proof
end

