-- ==== Sys2Proof/Machine/State.lean ====
section
/-! DEFINITION. The state of the machine (10_state.md), the reasons a step can stop (60_exceptions.md R200, R201), and
the state after reset (R26). -/

namespace Sys2Proof.Machine

/-- The causes of the fatal `OutOfBounds` (R201, 10_state.md R23). -/
inductive OobCause where
  /-- `pc > 4094` at the start of a cycle (R81). -/
  | fetch
  /-- A sprite read or a register load beyond address 4095 (R151, R166). -/
  | memRead
  /-- A digit or register store beyond address 4095 (R143, R150). -/
  | memWrite
  /-- `CALL` with 16 entries in use (R101). -/
  | stackOverflow
  /-- `RET` on an empty stack (R102). -/
  | stackUnderflow
  /-- `SKP` or `SKNP` with a register above 15 (R107, R108). -/
  | keyIndex
deriving DecidableEq, Repr

/-- How the machine stops (R200). `CapacityExceeded` is not here: it is a result of the host's load (R202), and the
unimplemented-opcode report is no fault (R203). -/
inductive Fault where
  /-- The fatal `OutOfBounds(cause)` of R201. Raised by `step` (cause `fetch`) and by the meanings of RET, CALL, SKP,
  SKNP, DRW, LD B, LD [I] and LD Vx,[I]. The machine stops as the spec says it does, so it is safe. -/
  | outOfBounds (cause : OobCause)
deriving DecidableEq, Repr

/-- Why there is no step. -/
inductive Refusal where
  /-- An instruction without a meaning in the model. Raised by no arm of `exec`: every instruction has its meaning.
  Safe. -/
  | notModelled (mnemonic : String)
  /-- The `cycle` strobe while the fault latch is set: "no step" (R80 (c), R205). Raised by `step` alone. Safe: it is
  what the spec says. -/
  | faultLatched (cause : OobCause)
deriving DecidableEq, Repr

/-- The `Unimplemented(w, a)` report event: the undefined word and its address (R190, R203). -/
structure Report where
  word    : Word
  address : Word
deriving DecidableEq, Repr

/-- The 4096 bytes of memory (R20, R40) as (address, byte) pairs in rising order of address. An address that is not
listed reads as `Config.background`, its content after reset, and no pair repeats that content. -/
abbrev Memory := List Host.Cell

/-- The result of a program load (80_host_interface.md R260, R264). -/
inductive LoadStatus where
  | ok
  /-- The image was longer than 3584 bytes and was refused (R202). -/
  | capacityExceeded
deriving DecidableEq, Repr

/-- Everything the spec gives the machine (10_state.md R10 to R23). `config`, `draws`, `report` and `loadError` are the
model's own fields (log entries 1, 4, 5, 15); the last two hold what two output ports show (R260). -/
structure State where
  /-- V[0] to V[15] (R10); V[15] is VF (R11). -/
  v      : Vector Byte 16
  /-- The program counter (R12). -/
  pc     : Word
  /-- The index register I (R13). -/
  index  : Word
  /-- The number of stack entries in use, 0 to 16 (R14). -/
  sp     : Fin 17
  /-- The call stack (R14). -/
  stack  : Vector Word 16
  /-- The delay timer DT (R15). -/
  dt     : Byte
  /-- The sound timer ST (R16). -/
  st     : Byte
  /-- Memory (R20). -/
  mem    : Memory
  /-- The display: the cell at column x, row y is number 64 * y + x (R18). -/
  disp   : Vector Bool 2048
  /-- The redraw flag (R19). -/
  redraw : Bool
  /-- The key latch, true for held (R22; one bit an entry, log entry 8). -/
  key    : Vector Bool 16
  /-- The fault latch (R23): no fault, or `OutOfBounds(cause)`. -/
  fault  : Option OobCause
  /-- The machine's parameters `TIMER_POLICY` and `FONT` (R24); no step changes them. -/
  config : Config
  /-- How many random bytes have been drawn: it picks the next free byte of R160. -/
  draws  : Nat
  /-- The report event attached to the cycle just completed (R80 (a), R203), the `report` port (R260). -/
  report : Option Report
  /-- The result of the last load, the `load_error` port (R260). -/
  loadError : LoadStatus
deriving DecidableEq, Repr

/-- The outcome of one instruction or one cycle (R80). -/
abbrev Result := Host.Outcome State Fault Refusal

/-- The machine with parameters `c` right after reset (R26, R230): memory lists nothing, so it reads as zeros and the
font. -/
def State.resetWith (c : Config) : State where
  v      := Vector.replicate 16 0
  pc     := 0x200#16
  index  := 0
  sp     := 0
  stack  := Vector.replicate 16 0
  dt     := 0
  st     := 0
  mem    := []
  disp   := Vector.replicate 2048 false
  redraw := false
  key    := Vector.replicate 16 false
  fault  := none
  config := c
  draws  := 0
  report := none
  loadError := .ok

/-- The machine right after reset, with the spec's default parameters (R26, D4, D19). -/
def State.reset : State := State.resetWith Config.default

end Sys2Proof.Machine
end

