-- ==== Sys2Proof/Machine/Ops.lean ====
section
/-! DEFINITION. The named operations over the state: registers, memory, stack, key latch, taking a fault, and the five
steps of a cycle (20_memory.md, 40_dispatcher_cycle.md, 60_exceptions.md R204). -/

namespace Sys2Proof.Machine

/-! ## Registers (R10) -/

/-- V[x]. Every index is valid (R10). -/
def State.getV (s : State) (x : Nibble) : Byte := s.v[x.toNat]'x.isLt

/-- V[x] <- b. -/
def State.setV (s : State) (x : Nibble) (b : Byte) : State :=
  { s with v := s.v.set x.toNat b x.isLt }

/-- V[0] to V[n-1], the registers a block store writes out (R150). -/
def State.firstRegs (s : State) (n : Nat) : List Byte := s.v.toList.take n

/-- V[k] <- the k-th byte, for every byte of the list; the registers above are unchanged (R151). -/
def State.setFirstRegs (s : State) (bs : List Byte) : State :=
  { s with v := Vector.ofFn fun k => (bs[k.val]?).getD s.v[k] }

/-! ## Memory (R40 to R44) -/

/-- The canonical form: addresses strictly rising, all of them addresses of the machine, and no entry equal to what
the address reads as unlisted. -/
abbrev Memory.wf (c : Config) (m : Memory) : Prop :=
  m.Pairwise (fun p q => p.1 < q.1) ∧ ∀ p ∈ m, p.1 < memSize ∧ p.2 ≠ c.background p.1

/-- The byte listed for an address, if one is. -/
def Memory.lookup (a : Nat) : Memory → Option Byte
  | []           => none
  | (b, v) :: m => if b = a then some v else Memory.lookup a m

/-- The byte of an address: what is listed, else its content after reset. -/
def Memory.read (c : Config) (m : Memory) (a : Nat) : Byte := (Memory.lookup a m).getD (c.background a)

/-- List a byte for an address, in rising order. -/
def Memory.insert (a : Nat) (v : Byte) : Memory → Memory
  | []           => [(a, v)]
  | (b, w) :: m =>
    if a < b then (a, v) :: (b, w) :: m
    else if a = b then (a, v) :: m
    else (b, w) :: Memory.insert a v m

/-- Take an address off the list. -/
def Memory.erase (a : Nat) (m : Memory) : Memory := m.filter fun p => p.1 ≠ a

/-- Store a byte, keeping the canonical form. -/
def Memory.write (c : Config) (m : Memory) (a : Nat) (v : Byte) : Memory :=
  if v = c.background a then Memory.erase a m else Memory.insert a v m

/-- The byte of memory at an address, with no bounds check. -/
def State.byteAt (s : State) (a : Nat) : Byte := Memory.read s.config s.mem a

/-- Store a byte at an address, with no bounds check. -/
def State.putByte (s : State) (a : Nat) (v : Byte) : State :=
  { s with mem := Memory.write s.config s.mem a v }

/-- `MemRead(a, 1)` (R41). -/
def State.memRead (s : State) (a : Nat) : Except OobCause Byte :=
  if memSize ≤ a then .error .memRead else .ok (s.byteAt a)

/-- `MemWrite(a, 1, v)` (R42). -/
def State.memWrite (s : State) (a : Nat) (v : Byte) : Except OobCause State :=
  if memSize ≤ a then .error .memWrite else .ok (s.putByte a v)

/-- Byte writes at a, a+1, ..., in ascending order; the first one beyond memory faults (R43, R44). -/
def State.storeBytes (a : Nat) : List Byte → State → Except OobCause State
  | [], s      => .ok s
  | b :: bs, s =>
    match s.memWrite a b with
    | .error c => .error c
    | .ok t    => State.storeBytes (a + 1) bs t

/-- n byte reads at a, a+1, ..., in ascending order; the first one beyond memory faults (R43, R44). -/
def State.loadBytes (s : State) (a : Nat) : Nat → Except OobCause (List Byte)
  | 0     => .ok []
  | n + 1 =>
    match s.memRead a with
    | .error c => .error c
    | .ok b    =>
      match s.loadBytes (a + 1) n with
      | .error c => .error c
      | .ok bs   => .ok (b :: bs)

/-! ## Taking a fault (R204)

The machine has no handler: a fault ends the cycle with its cause, and there is no successor state. There is no return
from a fault (R205); only the host's reset clears the latch. -/

/-- `raise OutOfBounds(cause)` (R204). -/
def raiseOutOfBounds (c : OobCause) : Result := .fault (.outOfBounds c)

/-- The outcome of a handler whose memory accesses may have faulted. -/
def complete : Except OobCause State → Result
  | .ok t    => .next t
  | .error c => raiseOutOfBounds c

/-- The outcome of the `cycle` strobe while the latch is set: no step (R80 (c), R205). -/
def refuseCycle (c : OobCause) : Result := .refused (.faultLatched c)

/-! ## Program counter and stack (R12, R14) -/

/-- The extra instruction width of a skip whose condition holds (41_control_flow.md). -/
def State.skipIf (s : State) (taken : Bool) : State :=
  if taken then { s with pc := s.pc + 2 } else s

/-- pc <- zext_16(nnn) (R100, R101). -/
def State.jumpTo (s : State) (nnn : Addr12) : State := { s with pc := nnn.setWidth 16 }

/-- Push the address of the next instruction (R101): overflow is checked before anything is written. -/
def State.pushPc (s : State) : Except OobCause State :=
  if h : s.sp.val < 16 then
    .ok { s with stack := s.stack.set s.sp.val s.pc h, sp := ⟨s.sp.val + 1, by omega⟩ }
  else .error .stackOverflow

/-- Pop an address into pc (R102): underflow is checked before anything is written. -/
def State.popPc (s : State) : Except OobCause State :=
  if h : 0 < s.sp.val then
    .ok { s with sp := ⟨s.sp.val - 1, by omega⟩, pc := s.stack[s.sp.val - 1]'(by omega) }
  else .error .stackUnderflow

/-! ## Key latch (R22) -/

/-- Is the key with this number held? There are 16 keys; a number above 15 is `OutOfBounds(KeyIndex)` (R107, R108). -/
def State.keyHeld (s : State) (k : Byte) : Except OobCause Bool :=
  if h : k.toNat < 16 then .ok (s.key[k.toNat]'h) else .error .keyIndex

/-- The lowest-indexed currently-held key, if one is held (R183). -/
def State.lowestHeld (s : State) : Option Nat := s.key.toList.findIdx? id

/-! ## The random byte (R160) -/

/-- `draw()`: the byte this execution receives; the next execution receives another. -/
def State.drawByte (s : State) : Byte × State :=
  (Config.randomByte s.draws, { s with draws := s.draws + 1 })

/-! ## The timer unit (R86 to R88) -/

/-- Step 5 of a cycle under `SharedSlotPerCycle` (R87): one decrement a cycle, the sound timer first. -/
def State.sharedSlot (s : State) : State :=
  if s.st ≠ 0 then { s with st := s.st - 1 }
  else if s.dt ≠ 0 then { s with dt := s.dt - 1 }
  else s

/-- A one-byte countdown: one less, never below 0 (R15, R16). -/
def countDown (t : Byte) : Byte := if t = 0 then 0 else t - 1

/-- `TimerTick` (R88): both timers, each only when nonzero. -/
def State.tickBoth (s : State) : State := { s with dt := countDown s.dt, st := countDown s.st }

/-- Step 5 of a cycle (R85). -/
def State.timerUpdate (s : State) : State :=
  match s.config.timerPolicy with
  | .sharedSlotPerCycle => s.sharedSlot
  | .independentTick    => s

/-! ## The steps of a cycle (R81 to R85, R90) -/

/-- Steps 1 and 2: the fetch bound check and the two byte reads, high byte first (R81, R82). -/
def State.fetchWord (s : State) : Except OobCause Word :=
  if 4094 < s.pc.toNat then .error .fetch
  else
    match s.memRead s.pc.toNat with
    | .error c => .error c
    | .ok hi   =>
      match s.memRead (s.pc.toNat + 1) with
      | .error c => .error c
      | .ok lo   => .ok (wordOfBytes hi lo)

/-- Step 3: pc <- pc + 2 before dispatch (R83). The report port shows this cycle's event, so far none (R203). -/
def State.beginCycle (s : State) : State := { s with pc := s.pc + 2, report := none }

/-- Step 5 after a handler that completed; a fault ends the cycle without it (R85, R204). -/
def endCycle : Result → Result
  | .next t    => .next t.timerUpdate
  | .fault f   => .fault f
  | .refused r => .refused r

/-! ## Placing an instruction for the host's question -/

/-- Store a word at `pc`, high byte first (R46); where `pc` is above 4094 nothing can be fetched and nothing is
stored. -/
def State.placeWord (s : State) (w : Word) : State :=
  if 4094 < s.pc.toNat then s
  else (s.putByte s.pc.toNat (bytesOfWord w).1).putByte (s.pc.toNat + 1) (bytesOfWord w).2

end Sys2Proof.Machine
end

