-- ==== Sys2Proof/Machine/Flags.lean ====
section
/-! DEFINITION. The flag computations (10_state.md R11) and the order in which result and flag are written
(42_arithmetic_logic.md R132). -/

namespace Sys2Proof.Machine

/-- A flag overwrites the whole byte of VF with 0 or 1 (R11). -/
def flagByte (b : Bool) : Byte := if b then 1 else 0

/-- The carry of `ADD Vx, Vy`: the unsigned sum exceeds 255 (R126). -/
def carryOut (a b : Byte) : Bool := decide (255 < a.toNat + b.toNat)

/-- The not-borrow flag of `a - b`: the minuend is at least the subtrahend (R127, R129). -/
def notBorrow (a b : Byte) : Bool := decide (b.toNat ≤ a.toNat)

/-- The bit `SHR` shifts out: old bit 0 (R128). -/
def shiftedOutRight (a : Byte) : Bool := a.getLsbD 0

/-- The bit `SHL` shifts out: old bit 7 (R130). -/
def shiftedOutLeft (a : Byte) : Bool := a.getLsbD 7

/-- Write the result to V[x], then the flag to VF (R132): with x = F the flag is what VF holds. -/
def State.setResultAndFlag (s : State) (x : Nibble) (result : Byte) (flag : Bool) : State :=
  (s.setV x result).setV vF (flagByte flag)

end Sys2Proof.Machine
end

