-- ==== Sys2Proof/Machine/Arithmetic.lean ====
section
/-! DEFINITION. Immediate and register arithmetic and logic (42_arithmetic_logic.md R120 to R132). -/

namespace Sys2Proof.Machine

/-- LD Vx, kk (R120). -/
def execLdImm (x : Nibble) (kk : Byte) (s : State) : Result := .next (s.setV x kk)

/-- ADD Vx, kk (R121): modulo 256, no flag. -/
def execAddImm (x : Nibble) (kk : Byte) (s : State) : Result := .next (s.setV x (s.getV x + kk))

/-- LD Vx, Vy (R122). -/
def execLdReg (x y : Nibble) (s : State) : Result := .next (s.setV x (s.getV y))

/-- OR Vx, Vy (R123): no flag. -/
def execOr (x y : Nibble) (s : State) : Result := .next (s.setV x (s.getV x ||| s.getV y))

/-- AND Vx, Vy (R124): no flag. -/
def execAnd (x y : Nibble) (s : State) : Result := .next (s.setV x (s.getV x &&& s.getV y))

/-- XOR Vx, Vy (R125): no flag. -/
def execXor (x y : Nibble) (s : State) : Result := .next (s.setV x (s.getV x ^^^ s.getV y))

/-- ADD Vx, Vy (R126): VF is the carry. -/
def execAddReg (x y : Nibble) (s : State) : Result :=
  let a := s.getV x
  let b := s.getV y
  .next (s.setResultAndFlag x (a + b) (carryOut a b))

/-- SUB Vx, Vy (R127): Vx - Vy, VF is 1 when nothing is borrowed. -/
def execSub (x y : Nibble) (s : State) : Result :=
  let a := s.getV x
  let b := s.getV y
  .next (s.setResultAndFlag x (a - b) (notBorrow a b))

/-- SHR Vx (R128): VF is the bit shifted out; y is ignored (R69). -/
def execShr (x _y : Nibble) (s : State) : Result :=
  let a := s.getV x
  .next (s.setResultAndFlag x (a >>> 1) (shiftedOutRight a))

/-- SUBN Vx, Vy (R129): Vy - Vx, VF is 1 when nothing is borrowed. -/
def execSubn (x y : Nibble) (s : State) : Result :=
  let a := s.getV x
  let b := s.getV y
  .next (s.setResultAndFlag x (b - a) (notBorrow b a))

/-- SHL Vx (R130): VF is the bit shifted out; y is ignored (R69). -/
def execShl (x _y : Nibble) (s : State) : Result :=
  let a := s.getV x
  .next (s.setResultAndFlag x (a <<< 1) (shiftedOutLeft a))

end Sys2Proof.Machine
end

