-- ==== Sys2Proof/Machine/Operands.lean ====
section
/-! DEFINITION. The operand forms (30_encoding.md R63): the implicit data address `I + k`, the glyph address of
`LD F, Vx`, the decimal digits of `LD B, Vx`, and the coordinates of `DRW`. -/

namespace Sys2Proof.Machine

/-- The effective address `I + k` (20_memory.md R44): a natural number, it does not wrap at 4096 or 65536. -/
def State.dataAddr (s : State) (k : Nat) : Nat := s.index.toNat + k

/-- The address of the glyph for the low nibble of a byte: 0x050 + 5 * (v & 0x0F) (R142). -/
def glyphAddr (v : Byte) : Word := BitVec.ofNat 16 (fontBase + 5 * (v.toNat % 16))

/-- Hundreds, tens and units of a byte, each a byte holding the digit (R143). -/
def decimalDigits (v : Byte) : List Byte :=
  [BitVec.ofNat 8 (v.toNat / 100), BitVec.ofNat 8 (v.toNat / 10 % 10), BitVec.ofNat 8 (v.toNat % 10)]

/-- The column of a sprite's left edge: V[x] mod 64 (R166). -/
def State.spriteColumn (s : State) (x : Nibble) : Nat := (s.getV x).toNat % 64

/-- The row of a sprite's top edge: V[y] mod 32 (R166). -/
def State.spriteRow (s : State) (y : Nibble) : Nat := (s.getV y).toNat % 32

end Sys2Proof.Machine
end

