-- ==== Sys2Proof/Machine/ControlFlow.lean ====
section
/-! DEFINITION. Control flow (41_control_flow.md R100 to R108). `s.pc` is the address of the next instruction (R83). -/

namespace Sys2Proof.Machine

/-- RET (R102). -/
def execRet (s : State) : Result := complete s.popPc

/-- JP nnn (R100). -/
def execJp (nnn : Addr12) (s : State) : Result := .next (s.jumpTo nnn)

/-- CALL nnn (R101). -/
def execCall (nnn : Addr12) (s : State) : Result :=
  match s.pushPc with
  | .error c => raiseOutOfBounds c
  | .ok t    => .next (t.jumpTo nnn)

/-- SE Vx, kk (R103). -/
def execSeImm (x : Nibble) (kk : Byte) (s : State) : Result := .next (s.skipIf (s.getV x == kk))

/-- SNE Vx, kk (R104). -/
def execSneImm (x : Nibble) (kk : Byte) (s : State) : Result := .next (s.skipIf (s.getV x != kk))

/-- SE Vx, Vy (R105). -/
def execSeReg (x y : Nibble) (s : State) : Result := .next (s.skipIf (s.getV x == s.getV y))

/-- SNE Vx, Vy (R106). -/
def execSneReg (x y : Nibble) (s : State) : Result := .next (s.skipIf (s.getV x != s.getV y))

/-- SKP Vx (R107). -/
def execSkp (x : Nibble) (s : State) : Result :=
  match s.keyHeld (s.getV x) with
  | .error c => raiseOutOfBounds c
  | .ok held => .next (s.skipIf held)

/-- SKNP Vx (R108). -/
def execSknp (x : Nibble) (s : State) : Result :=
  match s.keyHeld (s.getV x) with
  | .error c => raiseOutOfBounds c
  | .ok held => .next (s.skipIf !held)

end Sys2Proof.Machine
end

