-- ==== Sys2Proof/Machine/Graphics.lean ====
section
/-! DEFINITION. The display compositor (46_graphics.md R165 to R167): 64 columns by 32 rows, the cell at column x and
row y is number 64 * y + x (10_state.md R18). -/

namespace Sys2Proof.Machine

/-- The display as a value. -/
abbrev Display := Vector Bool 2048

/-- Is the cell at column `px`, row `py` set? Coordinates wrap at 64 and 32 (R166). -/
def cellAt (d : Display) (px py : Nat) : Bool := d[64 * (py % 32) + px % 64]'(by omega)

/-- Composite one set sprite bit: the cell is toggled, and a collision is recorded when it goes from 1 to 0. The pair
is the display and the collision so far. -/
def plot (px py : Nat) (acc : Display × Bool) : Display × Bool :=
  (acc.1.set (64 * (py % 32) + px % 64) (!cellAt acc.1 px py) (by omega), acc.2 || cellAt acc.1 px py)

/-- One sprite row at column `x0`, row `py`: bit 7 of the byte is the leftmost cell (R166). `plotRow x0 py b k` does
the bits j = 0, ..., k-1 from the left. -/
def plotRow (x0 py : Nat) (b : Byte) : Nat → Display × Bool → Display × Bool
  | 0, acc     => acc
  | k + 1, acc =>
    let acc' := plotRow x0 py b k acc
    if b.getLsbD (7 - k) then plot (x0 + k) py acc' else acc'

/-- All sprite rows, downwards from row `py` (R166). -/
def plotRows (x0 : Nat) : Nat → List Byte → Display × Bool → Display × Bool
  | _, [], acc       => acc
  | py, b :: bs, acc => plotRows x0 (py + 1) bs (plotRow x0 py b 8 acc)

/-- DRW Vx, Vy, n (R166): the sprite rows are the n bytes at I; both coordinates are read before VF is written. -/
def execDrw (x y n : Nibble) (s : State) : Result :=
  match s.loadBytes (s.dataAddr 0) n.toNat with
  | .error c => raiseOutOfBounds c
  | .ok rows =>
    let drawn := plotRows (s.spriteColumn x) (s.spriteRow y) rows (s.disp, false)
    .next ({ s with disp := drawn.1, redraw := true }.setV vF (flagByte drawn.2))

/-- CLS (R165). -/
def execCls (s : State) : Result := .next { s with disp := Vector.replicate 2048 false, redraw := true }

end Sys2Proof.Machine
end

