-- ==== Sys2Proof/Machine/Indexing.lean ====
section
/-! DEFINITION. The index-register instructions (43_indexing.md R140 to R143). -/

namespace Sys2Proof.Machine

/-- LD I, nnn (R140). -/
def execLdI (nnn : Addr12) (s : State) : Result := .next { s with index := nnn.setWidth 16 }

/-- ADD I, Vx (R141): modulo 65536, no flag. -/
def execAddI (x : Nibble) (s : State) : Result := .next { s with index := s.index + (s.getV x).setWidth 16 }

/-- LD F, Vx (R142). -/
def execLdF (x : Nibble) (s : State) : Result := .next { s with index := glyphAddr (s.getV x) }

/-- LD B, Vx (R143): hundreds, tens and units to I, I+1, I+2. -/
def execLdB (x : Nibble) (s : State) : Result :=
  complete (State.storeBytes (s.dataAddr 0) (decimalDigits (s.getV x)) s)

end Sys2Proof.Machine
end

