-- ==== Sys2Proof/Machine/Random.lean ====
section
/-! DEFINITION. The random instruction (45_random.md R160). -/

namespace Sys2Proof.Machine

/-- RND Vx, kk (R160): a fresh byte, masked; the byte is drawn even when the mask is 0. -/
def execRnd (x : Nibble) (kk : Byte) (s : State) : Result :=
  let (r, t) := s.drawByte
  .next (t.setV x (r &&& kk))

end Sys2Proof.Machine
end

