-- ==== Sys2Proof/Machine/TimerKey.lean ====
section
/-! DEFINITION. Timer and key input instructions (47_timer_key.md R180 to R183). -/

namespace Sys2Proof.Machine

/-- LD Vx, DT (R180): DT before this cycle's timer step. -/
def execLdVxDt (x : Nibble) (s : State) : Result := .next (s.setV x s.dt)

/-- LD Vx, K (R183): the lowest held key; with none held, pc goes back to this instruction. -/
def execLdVxK (x : Nibble) (s : State) : Result :=
  match s.lowestHeld with
  | some k => .next (s.setV x (BitVec.ofNat 8 k))
  | none   => .next { s with pc := s.pc - 2 }

/-- LD DT, Vx (R181). -/
def execLdDtVx (x : Nibble) (s : State) : Result := .next { s with dt := s.getV x }

/-- LD ST, Vx (R182). -/
def execLdStVx (x : Nibble) (s : State) : Result := .next { s with st := s.getV x }

end Sys2Proof.Machine
end

