-- ==== Sys2Proof/Machine/Transfer.lean ====
section
/-! DEFINITION. Memory block transfer (44_block_transfer.md R150, R151): the whole range is checked before any byte
moves, and I is unchanged. -/

namespace Sys2Proof.Machine

/-- LD [I], Vx (R150): V0 to Vx to memory at I. -/
def execStRegs (x : Nibble) (s : State) : Result :=
  if memSize ≤ s.dataAddr x.toNat then raiseOutOfBounds .memWrite
  else complete (State.storeBytes (s.dataAddr 0) (s.firstRegs (x.toNat + 1)) s)

/-- LD Vx, [I] (R151): V0 to Vx from memory at I. -/
def execLdRegs (x : Nibble) (s : State) : Result :=
  if memSize ≤ s.dataAddr x.toNat then raiseOutOfBounds .memRead
  else
    match s.loadBytes (s.dataAddr 0) (x.toNat + 1) with
    | .error c => raiseOutOfBounds c
    | .ok bs   => .next (s.setFirstRegs bs)

end Sys2Proof.Machine
end

