-- ==== Sys2Proof/Machine/Undefined.lean ====
section
/-! DEFINITION. Undefined words (48_undefined_opcodes.md R190 to R192): a reported no-op, not a trap. -/

namespace Sys2Proof.Machine

/-- UNIMPL (R190): report the word and its own address, pc - 2; nothing else. -/
def execUnimpl (w : Word) (s : State) : Result := .next { s with report := some ⟨w, s.pc - 2⟩ }

end Sys2Proof.Machine
end

