-- ==== Sys2Proof/Machine/Step.lean ====
section
/-! DEFINITION. The cycle (40_dispatcher_cycle.md R80, R90): one `cycle` strobe is one step. -/

namespace Sys2Proof.Machine

/-- One cycle (R90): the latch check, the fetch bound check and fetch, the advance of pc, decode and dispatch, the
timer update. -/
def step (s : State) : Host.Outcome State Fault Refusal :=
  match s.fault with
  | some c => refuseCycle c
  | none   =>
    match s.fetchWord with
    | .error c => raiseOutOfBounds c
    | .ok w    => endCycle (exec (decodeWord w) s.beginCycle)

/-- The state with the instruction whose bits are `w` (bit 0 the least significant of its one word, bits at and above
`nbits` zero) stored where `step` fetches next, high byte first (R46). -/
def State.withFetchWord (s : State) (nbits w : Nat) : State :=
  s.placeWord (BitVec.ofNat 16 (w % 2 ^ nbits))

end Sys2Proof.Machine
end

