-- ==== Sys2Proof/Machine/HostOps.lean ====
section
/-! DEFINITION. What the host can do between cycles (80_host_interface.md R260 to R271): its operations as functions on
the state, and the output ports. None of them is a step of the core. -/

namespace Sys2Proof.Machine

/-- The largest program image (R4, R264). -/
abbrev maxProgram : Nat := 3584

/-- `reset` (R230, R263): every piece of state to its reset value, the parameters kept. The model's draw counter goes
on, so that no random byte repeats because of a reset (log entry 4), and the `load_error` port keeps the result of the
last load, since a reset is no load (log entry 15). -/
def State.hostReset (s : State) : State :=
  { State.resetWith s.config with draws := s.draws, loadError := s.loadError }

/-- Bytes copied to a, a+1, ... (R264). -/
def State.putBytes (a : Nat) : List Byte → State → State
  | [], s      => s
  | b :: bs, s => State.putBytes (a + 1) bs (s.putByte a b)

/-- `load(bytes)` (R264): an image of more than 3584 bytes is refused, and nothing changes but the `load_error` port;
else it is copied to 0x200, and the port shows `Ok`. -/
def State.load (bytes : List Byte) (s : State) : State :=
  if maxProgram < bytes.length then { s with loadError := .capacityExceeded }
  else { State.putBytes programBase bytes s with loadError := .ok }

/-- `redraw_ack` (R266). -/
def State.redrawAck (s : State) : State := { s with redraw := false }

/-- A write of the whole key latch (R270). -/
def State.writeKeys (keys : Vector Bool 16) (s : State) : State := { s with key := keys }

/-- A write of one key-latch entry: true on press, false on release (R270). -/
def State.writeKey (k : Nibble) (held : Bool) (s : State) : State :=
  { s with key := s.key.set k.toNat held k.isLt }

/-- `timer_tick` (R88, R268): the port exists only under `IndependentTick`, and the tick is not performed while the
fault latch is set; `none` where there is no tick. -/
def State.timerTick (s : State) : Option State :=
  match s.config.timerPolicy, s.fault with
  | .independentTick, none => some s.tickBoth
  | _, _                   => none

/-- The display port: the cell at column x, row y (R265). -/
def State.displayPort (s : State) (x : Fin 64) (y : Fin 32) : Bool := s.disp[64 * y.val + x.val]'(by omega)

/-- The `redraw` port (R260). -/
def State.redrawPort (s : State) : Bool := s.redraw

/-- The `sound_timer` port (R260). -/
def State.soundTimerPort (s : State) : Byte := s.st

/-- The `sound_active` port: ST is nonzero (R267). -/
def State.soundActive (s : State) : Bool := s.st != 0

/-- The `fault` port (R269). -/
def State.faultPort (s : State) : Option OobCause := s.fault

/-- The `report` port: the event of the cycle just completed (R269). -/
def State.reportPort (s : State) : Option Report := s.report

/-- The `load_error` port: the result of the last load (R260, R264). -/
def State.loadErrorPort (s : State) : LoadStatus := s.loadError

/-- The host's moves that change state (R271). -/
inductive HostMove where
  | reset
  | load (bytes : List Byte)
  | writeKeys (keys : Vector Bool 16)
  | writeKey (k : Nibble) (held : Bool)
  | redrawAck
  | timerTick
deriving DecidableEq, Repr

/-- What a host move does; `none` where the move does not exist (R268). -/
def State.hostMove (m : HostMove) (s : State) : Option State :=
  match m with
  | .reset           => some s.hostReset
  | .load bytes      => some (s.load bytes)
  | .writeKeys keys  => some (s.writeKeys keys)
  | .writeKey k held => some (s.writeKey k held)
  | .redrawAck       => some s.redrawAck
  | .timerTick       => s.timerTick

end Sys2Proof.Machine
end

