-- ==== Sys2Proof/Machine/System.lean ====
section
/-! DEFINITION. The core and its host together (40_dispatcher_cycle.md R92, 80_host_interface.md R262): cycles and host
moves in any order, never one inside the other. -/

namespace Sys2Proof.Machine

/-- What is known of the state a faulting cycle leaves (60_exceptions.md R204): the latch holds the cause, and the
parameters and the model's draw counter are as before. The two output events are no storage: the cycle reported
nothing, since a cycle faults or reports but not both (R206), and it was no load, so the `load_error` port is as
before. The rest of the storage is not specified, so any is admitted, as long as memory is in its canonical form. -/
def FaultedFrom (s : State) (c : OobCause) (t : State) : Prop :=
  t.fault = some c ∧ t.config = s.config ∧ t.draws = s.draws ∧ t.report = none ∧ t.loadError = s.loadError ∧
    Memory.wf t.config t.mem

/-- One move of the whole system. -/
inductive SystemMove : State → State → Prop where
  /-- A cycle that completes (R80 (a)). -/
  | cycle {s t : State} (h : step s = .next t) : SystemMove s t
  /-- A cycle that ends in a fault (R80 (b), R204): the latch is set. -/
  | fault {s t : State} {c : OobCause} (h : step s = .fault (.outOfBounds c)) (ht : FaultedFrom s c t) : SystemMove s t
  /-- A host move at a cycle boundary (R262, R271). -/
  | host {s t : State} (m : HostMove) (h : s.hostMove m = some t) : SystemMove s t

/-- Any number of moves. -/
inductive SystemRun : State → State → Prop where
  | refl (s : State) : SystemRun s s
  | tail {s t u : State} (h : SystemRun s t) (m : SystemMove t u) : SystemRun s u

end Sys2Proof.Machine
end

