-- ==== Sys2Proof/Safety.lean ====
section
/-! DEFINITION. The terms claims are stated in: the invariants of a run, when a cycle can fetch, the spec's tables of
faults (60_exceptions.md R201), of pc (40_dispatcher_cycle.md R91) and of what each instruction writes (10_state.md),
and the frame of an instruction. None of this is used by the machine. -/

namespace Sys2Proof.Machine

/-! ## Invariants -/

/-- Memory is in its canonical form. -/
abbrev State.memOk (s : State) : Prop := Memory.wf s.config s.mem

/-- R12: pc is never above 4098, so its 16 bits never wrap; that holds because no stack entry is above 4096. -/
def State.pcBounded (s : State) : Prop := s.pc.toNat ≤ 4098 ∧ ∀ k : Fin 16, s.stack[k].toNat ≤ 4096

/-- What every reachable state of core and host satisfies. The storage of a faulted machine is not specified (R204),
so the bound on pc is claimed only while no fault is latched. -/
def State.systemOk (s : State) : Prop := s.memOk ∧ (s.fault = none → s.pcBounded)

/-- R206: a fault and a report are never both there to be read. A cycle raises at most one of them, and while the
latch is set no cycle runs that could report. -/
def State.faultOrReport (s : State) : Prop := s.faultPort ≠ none → s.reportPort = none

/-! ## Fetching -/

/-- The cycle gets past its latch check and its fetch bound check (R80, R81). -/
def State.canFetch (s : State) : Prop := s.fault = none ∧ s.pc.toNat ≤ 4094

/-- The word whose high byte is at `a` and whose low byte is at `a + 1` (20_memory.md R46). -/
def State.wordAt (s : State) (a : Nat) : Word := wordOfBytes (s.byteAt a) (s.byteAt (a + 1))

/-- The instruction the next cycle executes. -/
def State.nextInstr (s : State) : Instr := decodeWord (s.wordAt s.pc.toNat)

/-- The machine is parked at `a` (70_reset_and_hazards.md R248): it stands at a jump to itself. -/
def State.parkedAt (a : Addr12) (s : State) : Prop :=
  s.fault = none ∧ s.pc = a.setWidth 16 ∧ a.toNat ≤ 4094 ∧ s.wordAt a.toNat = 0x1#4 ++ a

/-! ## R201: when an instruction faults -/

/-- The cause of `OutOfBounds` an instruction raises in a state, if it raises one: R201's table, less its `Fetch` row,
which belongs to no instruction. -/
def oobCause (i : Instr) (s : State) : Option OobCause :=
  match i with
  | .ret       => if s.sp.val = 0 then some .stackUnderflow else none
  | .call _    => if s.sp.val = 16 then some .stackOverflow else none
  | .drw _ _ n => if 1 ≤ n.toNat ∧ 4096 ≤ s.index.toNat + n.toNat - 1 then some .memRead else none
  | .skp x     => if 15 < (s.getV x).toNat then some .keyIndex else none
  | .sknp x    => if 15 < (s.getV x).toNat then some .keyIndex else none
  | .ldB _     => if 4096 ≤ s.index.toNat + 2 then some .memWrite else none
  | .stRegs x  => if 4096 ≤ s.index.toNat + x.toNat then some .memWrite else none
  | .ldRegs x  => if 4096 ≤ s.index.toNat + x.toNat then some .memRead else none
  | .cls | .jp _ | .seImm _ _ | .sneImm _ _ | .seReg _ _ | .ldImm _ _ | .addImm _ _ | .ldReg _ _ | .or _ _ | .and _ _
  | .xor _ _ | .addReg _ _ | .sub _ _ | .shr _ _ | .subn _ _ | .shl _ _ | .sneReg _ _ | .ldI _ | .rnd _ _ | .ldVxDt _
  | .ldVxK _ | .ldDtVx _ | .ldStVx _ | .addI _ | .ldF _ | .unimpl _ => none

/-! ## R91: pc after a completed cycle -/

/-- Is this a skip whose condition holds (R103 to R108)? -/
def skipTaken (i : Instr) (s : State) : Bool :=
  match i with
  | .seImm x kk  => s.getV x == kk
  | .sneImm x kk => s.getV x != kk
  | .seReg x y   => s.getV x == s.getV y
  | .sneReg x y  => s.getV x != s.getV y
  | .skp x       => (s.key[(s.getV x).toNat]?).getD false
  | .sknp x      => !(s.key[(s.getV x).toNat]?).getD true
  | .cls | .ret | .jp _ | .call _ | .ldImm _ _ | .addImm _ _ | .ldReg _ _ | .or _ _ | .and _ _ | .xor _ _ | .addReg _ _
  | .sub _ _ | .shr _ _ | .subn _ _ | .shl _ _ | .ldI _ | .rnd _ _ | .drw _ _ _ | .ldVxDt _ | .ldVxK _ | .ldDtVx _
  | .ldStVx _ | .addI _ | .ldF _ | .ldB _ | .stRegs _ | .ldRegs _ | .unimpl _ => false

/-- Is any key held (R183)? -/
def State.anyKeyHeld (s : State) : Prop := ∃ k : Fin 16, s.key[k] = true

/-- R91's table: is `p` the pc after a completed cycle that executes `i` from the state `s` at the start of the
cycle? -/
def pcAfterCycle (i : Instr) (s : State) (p : Word) : Prop :=
  match i with
  | .jp nnn   => p = nnn.setWidth 16
  | .call nnn => p = nnn.setWidth 16
  | .ret      => s.stack[s.sp.val - 1]? = some p
  | .ldVxK _  => (s.anyKeyHeld → p = s.pc + 2) ∧ (¬ s.anyKeyHeld → p = s.pc)
  | .seImm _ _ | .sneImm _ _ | .seReg _ _ | .sneReg _ _ | .skp _ | .sknp _ =>
    p = if skipTaken i s then s.pc + 4 else s.pc + 2
  | .cls | .ldImm _ _ | .addImm _ _ | .ldReg _ _ | .or _ _ | .and _ _ | .xor _ _ | .addReg _ _ | .sub _ _ | .shr _ _
  | .subn _ _ | .shl _ _ | .ldI _ | .rnd _ _ | .drw _ _ _ | .ldVxDt _ | .ldDtVx _ | .ldStVx _ | .addI _ | .ldF _ | .ldB _
  | .stRegs _ | .ldRegs _ | .unimpl _ => p = s.pc + 2

/-! ## What an instruction writes -/

/-- The pieces of state besides the general registers. -/
inductive Part where
  | pc | index | sp | stack | dt | st | mem | disp | redraw | key | fault | config | draws | report | loadError
deriving DecidableEq, Repr

/-- The piece is the same in both states; memory is compared byte by byte. -/
def Part.same (p : Part) (s t : State) : Prop :=
  match p with
  | .pc     => t.pc = s.pc
  | .index  => t.index = s.index
  | .sp     => t.sp = s.sp
  | .stack  => t.stack = s.stack
  | .dt     => t.dt = s.dt
  | .st     => t.st = s.st
  | .mem    => ∀ a, t.byteAt a = s.byteAt a
  | .disp   => t.disp = s.disp
  | .redraw => t.redraw = s.redraw
  | .key    => t.key = s.key
  | .fault  => t.fault = s.fault
  | .config => t.config = s.config
  | .draws  => t.draws = s.draws
  | .report => t.report = s.report
  | .loadError => t.loadError = s.loadError

/-- A frame: from `s` to `t` only the listed registers and the listed pieces may have changed. -/
def ChangesOnly (regs : List Nibble) (parts : List Part) (s t : State) : Prop :=
  (∀ r, r ∉ regs → t.getV r = s.getV r) ∧ ∀ p, p ∉ parts → p.same s t

/-- The general registers an instruction may write: its destination, VF for the six flag writers of R11, and V[0] to
V[x] for the block load (R10). -/
def writesReg (i : Instr) (r : Nibble) : Prop :=
  match i with
  | .ldImm x _ | .addImm x _ | .ldReg x _ | .or x _ | .and x _ | .xor x _ | .rnd x _ | .ldVxDt x | .ldVxK x => r = x
  | .addReg x _ | .sub x _ | .shr x _ | .subn x _ | .shl x _ => r = x ∨ r = vF
  | .drw _ _ _ => r = vF
  | .ldRegs x  => r.toNat ≤ x.toNat
  | .cls | .ret | .jp _ | .call _ | .seImm _ _ | .sneImm _ _ | .seReg _ _ | .sneReg _ _ | .ldI _ | .skp _ | .sknp _
  | .ldDtVx _ | .ldStVx _ | .addI _ | .ldF _ | .ldB _ | .stRegs _ | .unimpl _ => False

/-- The other pieces of state an instruction's handler may write: the stack only by CALL and RET (R14), the display
and `redraw` only by CLS and DRW (R18, R19), memory only by LD B and LD [I] (R20), the index register only by R13's
three, the timers only by R15's and R16's one each, pc beyond the dispatcher's advance only by R12's; the key latch,
the fault latch, the parameters and the `load_error` port by none. -/
def writesPart (i : Instr) : List Part :=
  match i with
  | .ret  => [.pc, .sp]
  | .call _ => [.pc, .sp, .stack]
  | .jp _ | .seImm _ _ | .sneImm _ _ | .seReg _ _ | .sneReg _ _ | .skp _ | .sknp _ | .ldVxK _ => [.pc]
  | .cls | .drw _ _ _ => [.disp, .redraw]
  | .ldI _ | .addI _ | .ldF _ => [.index]
  | .ldDtVx _ => [.dt]
  | .ldStVx _ => [.st]
  | .ldB _ | .stRegs _ => [.mem]
  | .rnd _ _  => [.draws]
  | .unimpl _ => [.report]
  | .ldImm _ _ | .addImm _ _ | .ldReg _ _ | .or _ _ | .and _ _ | .xor _ _ | .addReg _ _ | .sub _ _ | .shr _ _
  | .subn _ _ | .shl _ _ | .ldVxDt _ | .ldRegs _ => []

/-- Is `a` one of the addresses the instruction stores to? LD B stores at I, I+1, I+2 (R143), LD [I] at I to I+x
(R150), and nothing else stores. -/
def storesAt (i : Instr) (s : State) (a : Nat) : Prop :=
  match i with
  | .ldB _    => ∃ k, k ≤ 2 ∧ a = s.dataAddr k
  | .stRegs x => ∃ k, k ≤ x.toNat ∧ a = s.dataAddr k
  | .cls | .ret | .jp _ | .call _ | .seImm _ _ | .sneImm _ _ | .seReg _ _ | .ldImm _ _ | .addImm _ _ | .ldReg _ _
  | .or _ _ | .and _ _ | .xor _ _ | .addReg _ _ | .sub _ _ | .shr _ _ | .subn _ _ | .shl _ _ | .sneReg _ _ | .ldI _
  | .rnd _ _ | .drw _ _ _ | .skp _ | .sknp _ | .ldVxDt _ | .ldVxK _ | .ldDtVx _ | .ldStVx _ | .addI _ | .ldF _
  | .ldRegs _ | .unimpl _ => False

/-! ## The sprite of a draw, cell by cell (R166) -/

/-- Does the sprite of `DRW Vx, Vy, n` have a set bit on the cell at column `px`, row `py`? `dx` and `dy` are how far
the cell lies right of and below the anchor, with wrap-around. -/
def spriteCovers (s : State) (x y n : Nibble) (px : Fin 64) (py : Fin 32) : Bool :=
  let dx := (px.val + 64 - s.spriteColumn x) % 64
  let dy := (py.val + 32 - s.spriteRow y) % 32
  decide (dx < 8) && decide (dy < n.toNat) && (s.byteAt (s.dataAddr dy)).getLsbD (7 - dx)

/-- The rows of the sprite are in memory (R166, R201): no row is read when n = 0. -/
def spriteInMemory (s : State) (n : Nibble) : Prop := n.toNat = 0 ∨ s.index.toNat + n.toNat - 1 < 4096

/-! ## Runs of handlers -/

/-- The handlers of a list of instructions, one after the other, each with the dispatcher's advance of pc before it
(R83, R84). -/
def runHandlers : List Instr → State → Result
  | [], s      => .next s
  | i :: is, s =>
    match exec i s.beginCycle with
    | .next t    => runHandlers is t
    | .fault f   => .fault f
    | .refused r => .refused r

/-- The address of the instruction after the m-th `CALL` of a chain of calls that starts at pc: the first call stands
at pc, each later one at the target of the call before it (R101). -/
def returnAddress (s : State) (targets : List Addr12) : Nat → Word
  | 0     => s.pc + 2
  | m + 1 => ((targets[m]?).getD 0).setWidth 16 + 2

/-- The timer step of R87 applied k times. -/
def sharedSlots : Nat → State → State
  | 0, s     => s
  | k + 1, s => sharedSlots k s.sharedSlot

end Sys2Proof.Machine
end

