-- ==== Sys2Proof/Certificates/Slice0/Obligations.lean ====
section
/-! DEFINITION. The statements for the provers. Each docstring names the rule of the spec it formalises; where the
spec's rule rests on one of its own decisions D1 to D32 (92_eei_decisions.md), the docstring names the decision. In a
statement about one instruction, `s` is the state its handler sees: pc is already the address of the next instruction
(40_dispatcher_cycle.md R83). The opcode numbers in the rules' encodings are the spec's decision D1, and "the flag is
written last" is its decision D10. -/

open Sys2Proof Sys2Proof.Machine

/-! ## Encoding -/

/-- R64, R66, R67 (opcode numbers: D1): decoding the word of a well-formed instruction gives it back, every operand at
every value. -/
def Obligations.DecodeOfEncode : Prop :=
  ∀ i : Instr, i.wellFormed = true → decodeWord (encode i) = i

/-- R64 (D1): every word decodes to a well-formed instruction, and encoding that gives the word back: no bit of a word
is dropped. -/
def Obligations.EncodeOfDecode : Prop :=
  ∀ w : Word, (decodeWord w).wellFormed = true ∧ encode (decodeWord w) = w

/-- R66 (D1): an instruction is selected when `w & mask == match` of its row, and UNIMPL when no row matches. -/
def Obligations.DecodeFollowsOpcodeTable : Prop :=
  ∀ w : Word,
    (∀ r ∈ opcodeRows, rowSelects r w = true → (decodeWord w).mnemonic = r.mnemonic) ∧
    ((∀ r ∈ opcodeRows, rowSelects r w = false) → decodeWord w = .unimpl w)

/-- R64: no two defined patterns overlap. -/
def Obligations.OpcodeRowsDisjoint : Prop :=
  ∀ (w : Word) (r q : OpcodeRow), r ∈ opcodeRows → q ∈ opcodeRows → rowSelects r w = true → rowSelects q w = true →
    r = q

/-- R67 (D3), R191 and R192 (D2): the undefined words are exactly those of R67's table; all of family B is among them,
and all of family 0 but the two words of CLS and RET. -/
def Obligations.UndefinedWordsDecodeToUnimpl : Prop :=
  (∀ w : Word, decodeWord w = .unimpl w ↔ isUndefinedWord w = true) ∧
  (∀ nnn : Addr12, decodeWord (formatA 0xB#4 nnn) = .unimpl (formatA 0xB#4 nnn)) ∧
  (∀ nnn : Addr12, nnn ≠ 0x0E0#12 → nnn ≠ 0x0EE#12 → decodeWord (formatA 0x0#4 nnn) = .unimpl (formatA 0x0#4 nnn))

/-- Words written out from 30_encoding.md's patterns, at least one for each leading nibble and for each of the timer and
key instructions, decode to what they stand for (95_test_vectors.md). -/
def Obligations.WordsWrittenFromTheSpec : Prop :=
  decodeWord 0x00E0 = .cls ∧ decodeWord 0x00EE = .ret ∧ decodeWord 0x1FFF = .jp 0xFFF ∧
  decodeWord 0x2300 = .call 0x300 ∧ decodeWord 0x332A = .seImm 3 0x2A ∧ decodeWord 0x432A = .sneImm 3 0x2A ∧
  decodeWord 0x5120 = .seReg 1 2 ∧ decodeWord 0x6A02 = .ldImm 0xA 0x02 ∧ decodeWord 0x7302 = .addImm 3 0x02 ∧
  decodeWord 0x812E = .shl 1 2 ∧ decodeWord 0x9120 = .sneReg 1 2 ∧ decodeWord 0xA2F0 = .ldI 0x2F0 ∧
  decodeWord 0xC30F = .rnd 3 0x0F ∧ decodeWord 0xD015 = .drw 0 1 5 ∧ decodeWord 0xE19E = .skp 1 ∧
  decodeWord 0xE1A1 = .sknp 1 ∧ decodeWord 0xF107 = .ldVxDt 1 ∧ decodeWord 0xF10A = .ldVxK 1 ∧
  decodeWord 0xF115 = .ldDtVx 1 ∧ decodeWord 0xF118 = .ldStVx 1 ∧ decodeWord 0xFA33 = .ldB 0xA ∧ decodeWord 0xF155 = .stRegs 1 ∧
  decodeWord 0xF065 = .ldRegs 0 ∧ decodeWord 0xB123 = .unimpl 0xB123 ∧ decodeWord 0x5121 = .unimpl 0x5121

/-! ## Memory -/

/-- R41, R42: a byte access at 4096 or above raises `OutOfBounds`; below, a read gives the byte and changes nothing,
and a write stores the byte and no other cell changes. -/
def Obligations.ByteReadsAndWrites : Prop :=
  ∀ (s : State) (a : Nat) (v : Byte),
    (4096 ≤ a → s.memRead a = .error .memRead ∧ s.memWrite a v = .error .memWrite) ∧
    (a < 4096 → s.memRead a = .ok (s.byteAt a) ∧
      ∃ t, s.memWrite a v = .ok t ∧ t.memRead a = .ok v ∧ (∀ b, b ≠ a → t.byteAt b = s.byteAt b) ∧
        ChangesOnly [] [.mem] s t)

/-! ## The cycle -/

/-- R82 to R85, R90: when the two bytes at pc decode to `i`, the step is `exec i` from the state with pc advanced by 2
(and the report port cleared, log entry 5), followed by the timer step if `i` completes. -/
def Obligations.StepRunsDecodedInstruction : Prop :=
  ∀ (s : State) (i : Instr), s.canFetch → decodeWord (s.wordAt s.pc.toNat) = i →
    step s = endCycle (exec i s.beginCycle) ∧
    s.beginCycle.pc = s.pc + 2 ∧ s.beginCycle.report = none ∧ ChangesOnly [] [.pc, .report] s s.beginCycle ∧
    (∀ u, exec i s.beginCycle = .next u → step s = .next u.timerUpdate) ∧
    (∀ f, exec i s.beginCycle = .fault f → step s = .fault f)

/-- R81, R82: a cycle with pc above 4094 raises `OutOfBounds(Fetch)`; with pc up to 4094 the word fetched has the byte
at pc as its high 8 bits and the byte at pc + 1 as its low 8 bits. -/
def Obligations.FetchBoundAndByteOrder : Prop :=
  ∀ s : State, s.fault = none →
    (4094 < s.pc.toNat → step s = .fault (.outOfBounds .fetch)) ∧
    (s.pc.toNat ≤ 4094 → ∃ w, s.fetchWord = .ok w ∧
      w.toNat = (s.byteAt s.pc.toNat).toNat * 256 + (s.byteAt (s.pc.toNat + 1)).toNat)

/-- R80 (c), R205 (D15): while the fault latch is set there is no step. -/
def Obligations.LatchedCoreTakesNoStep : Prop :=
  ∀ (s : State) (c : OobCause), s.fault = some c → step s = .refused (.faultLatched c)

/-- R87: under `SharedSlotPerCycle` step 5 decrements ST if it is nonzero, else DT if it is nonzero, and nothing else
changes. -/
def Obligations.SharedSlotTimerUnit : Prop :=
  ∀ s : State, s.config.timerPolicy = .sharedSlotPerCycle →
    (s.st ≠ 0 → s.timerUpdate.st.toNat + 1 = s.st.toNat ∧ s.timerUpdate.dt = s.dt) ∧
    (s.st = 0 → s.dt ≠ 0 → s.timerUpdate.st = 0 ∧ s.timerUpdate.dt.toNat + 1 = s.dt.toNat) ∧
    (s.st = 0 → s.dt = 0 → s.timerUpdate.st = 0 ∧ s.timerUpdate.dt = 0) ∧
    ChangesOnly [] [.dt, .st] s s.timerUpdate

/-- What the spec derives from R87: after k timer steps ST has lost k and DT what k exceeds ST by, neither going below
0; so DT is frozen while ST is nonzero and is 0 after ST + DT steps. -/
def Obligations.SharedSlotCountsSoundThenDelay : Prop :=
  ∀ (k : Nat) (s : State),
    (sharedSlots k s).st.toNat = s.st.toNat - k ∧ (sharedSlots k s).dt.toNat = s.dt.toNat - (k - s.st.toNat) ∧
    (s.config.timerPolicy = .sharedSlotPerCycle → sharedSlots (k + 1) s = sharedSlots k s.timerUpdate)

/-- R88, R268 (D4): under `IndependentTick` the cycle's step 5 does nothing, and `TimerTick` decrements both timers,
each only when nonzero, unless a fault is latched; under `SharedSlotPerCycle` there is no `TimerTick`. -/
def Obligations.IndependentTickTimerUnit : Prop :=
  ∀ s : State,
    (s.config.timerPolicy = .independentTick → s.timerUpdate = s ∧
      (s.fault = none → ∃ t, s.timerTick = some t ∧ t.dt.toNat = s.dt.toNat - 1 ∧ t.st.toNat = s.st.toNat - 1 ∧
        ChangesOnly [] [.dt, .st] s t) ∧
      (s.fault ≠ none → s.timerTick = none)) ∧
    (s.config.timerPolicy = .sharedSlotPerCycle → s.timerTick = none)

/-- R89: within a cycle under `SharedSlotPerCycle` the handler runs before the timer step. -/
def Obligations.HandlerRunsBeforeTimerStep : Prop :=
  ∀ (s : State) (x : Nibble), s.canFetch → s.config.timerPolicy = .sharedSlotPerCycle →
    (s.nextInstr = .ldVxDt x → ∃ t, step s = .next t ∧ t.getV x = s.dt) ∧
    (s.nextInstr = .ldDtVx x → ∃ t, step s = .next t ∧
      t.dt.toNat = if s.st = 0 then (s.getV x).toNat - 1 else (s.getV x).toNat) ∧
    (s.nextInstr = .ldStVx x → ∃ t, step s = .next t ∧ t.st.toNat = (s.getV x).toNat - 1 ∧
      (s.getV x ≠ 0 → t.dt = s.dt))

/-- R91: pc after every completed cycle, per instruction class. -/
def Obligations.PcAfterEveryCycle : Prop :=
  ∀ s t : State, step s = .next t → pcAfterCycle s.nextInstr s t.pc

/-! ## Faults and completion -/

/-- R201 (D6, D16): an instruction raises `OutOfBounds` exactly when R201's table says so, with the cause it names. -/
def Obligations.InstructionsFaultExactlyAsListed : Prop :=
  ∀ (i : Instr) (s : State) (c : OobCause), exec i s = .fault (.outOfBounds c) ↔ oobCause i s = some c

/-- R84, R201: every instruction completes in every state in which R201's table lists no fault for it; none is ever
refused. -/
def Obligations.InstructionsCompleteUnlessListed : Prop :=
  ∀ (i : Instr) (s : State), (oobCause i s = none → ∃ t, exec i s = .next t) ∧ ∀ r, exec i s ≠ .refused r

/-- R206: the outcome of a cycle that fetches is decided by the fetched instruction's row of R201 alone. -/
def Obligations.CycleOutcomeDecidedByInstruction : Prop :=
  ∀ s : State, s.canFetch →
    (oobCause s.nextInstr s = none → ∃ t, step s = .next t) ∧
    (∀ c, oobCause s.nextInstr s = some c → step s = .fault (.outOfBounds c))

/-! ## Control flow -/

/-- R100: `JP nnn` is word 1nnn; it sets pc to nnn and changes nothing else. -/
def Obligations.JumpSetsPc : Prop :=
  ∀ (nnn : Addr12) (s : State),
    decodeWord (formatA 0x1#4 nnn) = .jp nnn ∧
    ∃ t, exec (.jp nnn) s = .next t ∧ t.pc.toNat = nnn.toNat ∧ ChangesOnly [] [.pc] s t

/-- R101 (D6): `CALL nnn` is word 2nnn; with 16 entries in use it raises `OutOfBounds(StackOverflow)`, else it stores
pc in the next free entry, counts it, and sets pc to nnn. -/
def Obligations.CallPushesAndJumps : Prop :=
  ∀ (nnn : Addr12) (s : State),
    decodeWord (formatA 0x2#4 nnn) = .call nnn ∧
    (s.sp.val = 16 → exec (.call nnn) s = .fault (.outOfBounds .stackOverflow)) ∧
    (s.sp.val < 16 → ∃ t, exec (.call nnn) s = .next t ∧ t.stack[s.sp.val]? = some s.pc ∧
      (∀ k : Nat, k ≠ s.sp.val → t.stack[k]? = s.stack[k]?) ∧ t.sp.val = s.sp.val + 1 ∧ t.pc.toNat = nnn.toNat ∧
      ChangesOnly [] [.pc, .sp, .stack] s t)

/-- R102 (D6): `RET` is word 00EE; with an empty stack it raises `OutOfBounds(StackUnderflow)`, else it takes the last
entry off and sets pc to it. -/
def Obligations.ReturnPopsPc : Prop :=
  ∀ s : State,
    decodeWord 0x00EE#16 = .ret ∧
    (s.sp.val = 0 → exec .ret s = .fault (.outOfBounds .stackUnderflow)) ∧
    (0 < s.sp.val → ∃ t, exec .ret s = .next t ∧ t.sp.val + 1 = s.sp.val ∧ s.stack[s.sp.val - 1]? = some t.pc ∧
      ChangesOnly [] [.pc, .sp] s t)

/-- R109: calls nested to any depth the stack has room for return in reverse order, each to the instruction after its
call; one more call than the stack has room for raises `OutOfBounds(StackOverflow)`. -/
def Obligations.CallsNestAndReturnInReverse : Prop :=
  ∀ (targets : List Addr12) (s : State),
    (s.sp.val + targets.length ≤ 16 →
      ∃ t, runHandlers (targets.map .call) s = .next t ∧ t.sp.val = s.sp.val + targets.length ∧
        ∀ j, j < targets.length →
          ∃ u, runHandlers (List.replicate (j + 1) .ret) t = .next u ∧
            u.sp.val + (j + 1) = s.sp.val + targets.length ∧
            u.pc = returnAddress s targets (targets.length - 1 - j)) ∧
    (16 < s.sp.val + targets.length →
      runHandlers (targets.map .call) s = .fault (.outOfBounds .stackOverflow))

/-- R103, R104: `SE Vx, kk` is word 3xkk and skips 2 bytes when the register equals the immediate; `SNE Vx, kk` is
word 4xkk and skips when it differs; nothing but pc changes. -/
def Obligations.SkipsOnImmediate : Prop :=
  ∀ (x : Nibble) (kk : Byte) (s : State),
    decodeWord (formatI 0x3#4 x kk) = .seImm x kk ∧ decodeWord (formatI 0x4#4 x kk) = .sneImm x kk ∧
    (∃ t, exec (.seImm x kk) s = .next t ∧ t.pc = (if s.getV x = kk then s.pc + 2 else s.pc) ∧
      ChangesOnly [] [.pc] s t) ∧
    (∃ t, exec (.sneImm x kk) s = .next t ∧ t.pc = (if s.getV x = kk then s.pc else s.pc + 2) ∧
      ChangesOnly [] [.pc] s t)

/-- R105, R106: `SE Vx, Vy` is word 5xy0 and skips 2 bytes when the two registers are equal; `SNE Vx, Vy` is word 9xy0
and skips when they differ; nothing but pc changes. -/
def Obligations.SkipsOnRegisters : Prop :=
  ∀ (x y : Nibble) (s : State),
    decodeWord (formatR 0x5#4 x y 0) = .seReg x y ∧ decodeWord (formatR 0x9#4 x y 0) = .sneReg x y ∧
    (∃ t, exec (.seReg x y) s = .next t ∧ t.pc = (if s.getV x = s.getV y then s.pc + 2 else s.pc) ∧
      ChangesOnly [] [.pc] s t) ∧
    (∃ t, exec (.sneReg x y) s = .next t ∧ t.pc = (if s.getV x = s.getV y then s.pc else s.pc + 2) ∧
      ChangesOnly [] [.pc] s t)

/-- R107, R108 (D16): `SKP Vx` is word Ex9E and skips 2 bytes when the key numbered by the register is held; `SKNP Vx`
is word ExA1 and skips when it is released; a number above 15 raises `OutOfBounds(KeyIndex)`. -/
def Obligations.SkipsOnKey : Prop :=
  ∀ (x : Nibble) (s : State),
    decodeWord (formatI 0xE#4 x 0x9E) = .skp x ∧ decodeWord (formatI 0xE#4 x 0xA1) = .sknp x ∧
    (15 < (s.getV x).toNat → exec (.skp x) s = .fault (.outOfBounds .keyIndex) ∧
      exec (.sknp x) s = .fault (.outOfBounds .keyIndex)) ∧
    (∀ k : Fin 16, (s.getV x).toNat = k.val →
      (∃ t, exec (.skp x) s = .next t ∧ t.pc = (if s.key[k] = true then s.pc + 2 else s.pc) ∧
        ChangesOnly [] [.pc] s t) ∧
      (∃ t, exec (.sknp x) s = .next t ∧ t.pc = (if s.key[k] = true then s.pc else s.pc + 2) ∧
        ChangesOnly [] [.pc] s t))

/-! ## Arithmetic and logic -/

/-- R120, R121, R122: `LD Vx, kk` is word 6xkk, `ADD Vx, kk` is word 7xkk and adds modulo 256 with no flag, `LD Vx, Vy`
is word 8xy0; each writes Vx and nothing else. -/
def Obligations.LoadsAndAddImmediate : Prop :=
  ∀ (x y : Nibble) (kk : Byte) (s : State),
    decodeWord (formatI 0x6#4 x kk) = .ldImm x kk ∧ decodeWord (formatI 0x7#4 x kk) = .addImm x kk ∧
    decodeWord (formatR 0x8#4 x y 0) = .ldReg x y ∧
    (∃ t, exec (.ldImm x kk) s = .next t ∧ t.getV x = kk ∧ ChangesOnly [x] [] s t) ∧
    (∃ t, exec (.addImm x kk) s = .next t ∧ (t.getV x).toNat = ((s.getV x).toNat + kk.toNat) % 256 ∧
      ChangesOnly [x] [] s t) ∧
    (∃ t, exec (.ldReg x y) s = .next t ∧ t.getV x = s.getV y ∧ ChangesOnly [x] [] s t)

/-- R123, R124, R125 (D11: VF is not written): `OR`, `AND` and `XOR` are words 8xy1, 8xy2 and 8xy3; each writes the
bitwise result to Vx and nothing else. -/
def Obligations.LogicWritesNoFlag : Prop :=
  ∀ (x y : Nibble) (s : State),
    decodeWord (formatR 0x8#4 x y 1) = .or x y ∧ decodeWord (formatR 0x8#4 x y 2) = .and x y ∧
    decodeWord (formatR 0x8#4 x y 3) = .xor x y ∧
    (∃ t, exec (.or x y) s = .next t ∧ ChangesOnly [x] [] s t ∧
      ∀ k, (t.getV x).getLsbD k = ((s.getV x).getLsbD k || (s.getV y).getLsbD k)) ∧
    (∃ t, exec (.and x y) s = .next t ∧ ChangesOnly [x] [] s t ∧
      ∀ k, (t.getV x).getLsbD k = ((s.getV x).getLsbD k && (s.getV y).getLsbD k)) ∧
    (∃ t, exec (.xor x y) s = .next t ∧ ChangesOnly [x] [] s t ∧
      ∀ k, (t.getV x).getLsbD k = ((s.getV x).getLsbD k ^^ (s.getV y).getLsbD k))

/-- R126: `ADD Vx, Vy` is word 8xy4; VF is 1 exactly when the unsigned sum exceeds 255, else 0, whatever x is; a
destination other than VF holds the sum modulo 256. -/
def Obligations.AddSetsCarry : Prop :=
  ∀ (x y : Nibble) (s : State),
    decodeWord (formatR 0x8#4 x y 4) = .addReg x y ∧
    ∃ t, exec (.addReg x y) s = .next t ∧
      (x ≠ vF → (t.getV x).toNat = ((s.getV x).toNat + (s.getV y).toNat) % 256) ∧
      t.getV vF = (if 255 < (s.getV x).toNat + (s.getV y).toNat then 1 else 0) ∧
      ChangesOnly [x, vF] [] s t

/-- R127, R129: `SUB Vx, Vy` is word 8xy5 and takes Vy from Vx, `SUBN Vx, Vy` is word 8xy7 and takes Vx from Vy, both
modulo 256; VF is 1 exactly when the minuend is at least the subtrahend, else 0, whatever x is. -/
def Obligations.SubtractsSetNotBorrow : Prop :=
  ∀ (x y : Nibble) (s : State),
    decodeWord (formatR 0x8#4 x y 5) = .sub x y ∧ decodeWord (formatR 0x8#4 x y 7) = .subn x y ∧
    (∃ t, exec (.sub x y) s = .next t ∧
      (x ≠ vF → (t.getV x).toNat = ((s.getV x).toNat + 256 - (s.getV y).toNat) % 256) ∧
      t.getV vF = (if (s.getV y).toNat ≤ (s.getV x).toNat then 1 else 0) ∧ ChangesOnly [x, vF] [] s t) ∧
    (∃ t, exec (.subn x y) s = .next t ∧
      (x ≠ vF → (t.getV x).toNat = ((s.getV y).toNat + 256 - (s.getV x).toNat) % 256) ∧
      t.getV vF = (if (s.getV x).toNat ≤ (s.getV y).toNat then 1 else 0) ∧ ChangesOnly [x, vF] [] s t)

/-- R128, R130 (D9: Vx is shifted in place and y is ignored): `SHR Vx` is word 8xy6 and halves Vx, VF is the bit
shifted out; `SHL Vx` is word 8xyE and doubles Vx modulo 256, VF is the bit shifted out; both for every y. -/
def Obligations.ShiftsSetShiftedBit : Prop :=
  ∀ (x y : Nibble) (s : State),
    decodeWord (formatR 0x8#4 x y 6) = .shr x y ∧ decodeWord (formatR 0x8#4 x y 0xE) = .shl x y ∧
    (∃ t, exec (.shr x y) s = .next t ∧ (x ≠ vF → (t.getV x).toNat = (s.getV x).toNat / 2) ∧
      (t.getV vF).toNat = (s.getV x).toNat % 2 ∧ ChangesOnly [x, vF] [] s t) ∧
    (∃ t, exec (.shl x y) s = .next t ∧ (x ≠ vF → (t.getV x).toNat = 2 * (s.getV x).toNat % 256) ∧
      (t.getV vF).toNat = (s.getV x).toNat / 128 ∧ ChangesOnly [x, vF] [] s t)

/-! ## Index register -/

/-- R140, R142: `LD I, nnn` is word Annn and sets I to nnn; `LD F, Vx` is word Fx29 and sets I to 0x050 plus 5 times
the low nibble of Vx; nothing else changes. -/
def Obligations.IndexLoads : Prop :=
  ∀ (nnn : Addr12) (x : Nibble) (s : State),
    decodeWord (formatA 0xA#4 nnn) = .ldI nnn ∧ decodeWord (formatI 0xF#4 x 0x29) = .ldF x ∧
    (∃ t, exec (.ldI nnn) s = .next t ∧ t.index.toNat = nnn.toNat ∧ ChangesOnly [] [.index] s t) ∧
    (∃ t, exec (.ldF x) s = .next t ∧ t.index.toNat = 0x050 + 5 * ((s.getV x).toNat % 16) ∧
      ChangesOnly [] [.index] s t)

/-- R141 (D12: the wrap and the absence of a flag): `ADD I, Vx` is word Fx1E and adds modulo 65536; nothing but I
changes. -/
def Obligations.IndexAddWraps : Prop :=
  ∀ (x : Nibble) (s : State),
    decodeWord (formatI 0xF#4 x 0x1E) = .addI x ∧
    ∃ t, exec (.addI x) s = .next t ∧ t.index.toNat = (s.index.toNat + (s.getV x).toNat) % 65536 ∧
      ChangesOnly [] [.index] s t

/-- R143 (D13: I is unchanged): `LD B, Vx` is word Fx33; with I + 2 beyond memory it raises `OutOfBounds(MemWrite)`,
else it stores hundreds, tens and units at I, I+1, I+2 and changes no other byte. -/
def Obligations.DecimalDigitsStored : Prop :=
  ∀ (x : Nibble) (s : State),
    decodeWord (formatI 0xF#4 x 0x33) = .ldB x ∧
    (4096 ≤ s.index.toNat + 2 → exec (.ldB x) s = .fault (.outOfBounds .memWrite)) ∧
    (s.index.toNat + 2 < 4096 → ∃ t, exec (.ldB x) s = .next t ∧
      (t.byteAt (s.dataAddr 0)).toNat = (s.getV x).toNat / 100 ∧
      (t.byteAt (s.dataAddr 1)).toNat = (s.getV x).toNat / 10 % 10 ∧
      (t.byteAt (s.dataAddr 2)).toNat = (s.getV x).toNat % 10 ∧
      (∀ a, (∀ k, k ≤ 2 → a ≠ s.dataAddr k) → t.byteAt a = s.byteAt a) ∧ ChangesOnly [] [.mem] s t)

/-! ## Block transfer -/

/-- R150 (D13: I is unchanged): `LD [I], Vx` is word Fx55; with I + x beyond memory it raises
`OutOfBounds(MemWrite)`, else V[k] is at I + k for every k up to x and no other byte changes. -/
def Obligations.RegistersStored : Prop :=
  ∀ (x : Nibble) (s : State),
    decodeWord (formatI 0xF#4 x 0x55) = .stRegs x ∧
    (4096 ≤ s.index.toNat + x.toNat → exec (.stRegs x) s = .fault (.outOfBounds .memWrite)) ∧
    (s.index.toNat + x.toNat < 4096 → ∃ t, exec (.stRegs x) s = .next t ∧
      (∀ r : Nibble, r.toNat ≤ x.toNat → t.byteAt (s.dataAddr r.toNat) = s.getV r) ∧
      (∀ a, (∀ k, k ≤ x.toNat → a ≠ s.dataAddr k) → t.byteAt a = s.byteAt a) ∧ ChangesOnly [] [.mem] s t)

/-- R151 (D13: I is unchanged): `LD Vx, [I]` is word Fx65; with I + x beyond memory it raises `OutOfBounds(MemRead)`,
else V[k] holds the byte at I + k for every k up to x, and the registers above x and everything else are
unchanged. -/
def Obligations.RegistersLoaded : Prop :=
  ∀ (x : Nibble) (s : State),
    decodeWord (formatI 0xF#4 x 0x65) = .ldRegs x ∧
    (4096 ≤ s.index.toNat + x.toNat → exec (.ldRegs x) s = .fault (.outOfBounds .memRead)) ∧
    (s.index.toNat + x.toNat < 4096 → ∃ t, exec (.ldRegs x) s = .next t ∧
      (∀ r : Nibble, r.toNat ≤ x.toNat → t.getV r = s.byteAt (s.dataAddr r.toNat)) ∧
      (∀ r : Nibble, x.toNat < r.toNat → t.getV r = s.getV r) ∧ ∀ p : Part, p.same s t)

/-- R150, R151 (D13): registers stored at I are loaded back by a load of as many registers from the same I and the same
memory, whatever the registers hold by then. -/
def Obligations.StoreThenLoadRestoresRegisters : Prop :=
  ∀ (x : Nibble) (s : State), s.index.toNat + x.toNat < 4096 →
    ∃ t, exec (.stRegs x) s = .next t ∧
      ∀ u : State, u.index = s.index → (∀ a, u.byteAt a = t.byteAt a) →
        ∃ v, exec (.ldRegs x) u = .next v ∧ ∀ r : Nibble, r.toNat ≤ x.toNat → v.getV r = s.getV r

/-! ## Random -/

/-- R160 (D20): `RND Vx, kk` is word Cxkk; Vx becomes the next free byte masked by kk, whatever that byte is: mask bits
that are 0 give bits that are 0. The byte is drawn at every mask. -/
def Obligations.RandomByteMasked : Prop :=
  ∀ (x : Nibble) (kk : Byte) (s : State),
    decodeWord (formatI 0xC#4 x kk) = .rnd x kk ∧
    ∃ t, exec (.rnd x kk) s = .next t ∧ t.getV x = Config.randomByte s.draws &&& kk ∧
      (∀ k, kk.getLsbD k = false → (t.getV x).getLsbD k = false) ∧
      t.draws = s.draws + 1 ∧ ChangesOnly [x] [.draws] s t

/-! ## Display -/

/-- R165: `CLS` is word 00E0; every cell becomes 0, `redraw` becomes 1, nothing else changes. -/
def Obligations.ClearBlanksDisplay : Prop :=
  ∀ s : State,
    decodeWord 0x00E0#16 = .cls ∧
    ∃ t, exec .cls s = .next t ∧ (∀ (px : Fin 64) (py : Fin 32), t.displayPort px py = false) ∧ t.redraw = true ∧
      ChangesOnly [] [.disp, .redraw] s t

/-- R166 (bit order, row order and vertical wrap: D18, D30): `DRW Vx, Vy, n` is word Dxyn. With a sprite row beyond
memory it raises `OutOfBounds(MemRead)`. Else every cell is the exclusive-or of what it was and the sprite's bit on it,
VF is 1 exactly when a set sprite bit lies on a cell that was 1, `redraw` is set, and nothing else changes; with n = 0
no byte is read. -/
def Obligations.DrawCompositesByXor : Prop :=
  ∀ (x y n : Nibble) (s : State),
    decodeWord (formatR 0xD#4 x y n) = .drw x y n ∧
    (¬ spriteInMemory s n → exec (.drw x y n) s = .fault (.outOfBounds .memRead)) ∧
    (spriteInMemory s n → ∃ t, exec (.drw x y n) s = .next t ∧
      (∀ (px : Fin 64) (py : Fin 32), t.displayPort px py = (s.displayPort px py ^^ spriteCovers s x y n px py)) ∧
      (t.getV vF = 1 ∨ t.getV vF = 0) ∧
      (t.getV vF = 1 ↔ ∃ (px : Fin 64) (py : Fin 32), s.displayPort px py = true ∧ spriteCovers s x y n px py = true) ∧
      t.redraw = true ∧ ChangesOnly [vF] [.disp, .redraw] s t)

/-- R167 (a), (b): a draw repeated with the same coordinates restores the display, and on a display blank under the
sprite only the second draw reports a collision, if the sprite has a set bit. The coordinates are the same unless
VF, which the first draw writes, is one of them. -/
def Obligations.DrawTwiceRestoresDisplay : Prop :=
  ∀ (x y n : Nibble) (s : State), spriteInMemory s n →
    ∃ t, exec (.drw x y n) s = .next t ∧
      (t.getV x = s.getV x → t.getV y = s.getV y →
        ∃ u, exec (.drw x y n) t = .next u ∧ u.disp = s.disp ∧
          ((∀ (px : Fin 64) (py : Fin 32), spriteCovers s x y n px py = true → s.displayPort px py = false) →
            t.getV vF = 0 ∧
            (u.getV vF = 1 ↔ ∃ (px : Fin 64) (py : Fin 32), spriteCovers s x y n px py = true)))

/-! ## Timer and key instructions -/

/-- R180, R181, R182: `LD Vx, DT` is word Fx07, `LD DT, Vx` is word Fx15, `LD ST, Vx` is word Fx18; each copies one byte
and changes nothing else. -/
def Obligations.TimerMoves : Prop :=
  ∀ (x : Nibble) (s : State),
    decodeWord (formatI 0xF#4 x 0x07) = .ldVxDt x ∧ decodeWord (formatI 0xF#4 x 0x15) = .ldDtVx x ∧
    decodeWord (formatI 0xF#4 x 0x18) = .ldStVx x ∧
    (∃ t, exec (.ldVxDt x) s = .next t ∧ t.getV x = s.dt ∧ ChangesOnly [x] [] s t) ∧
    (∃ t, exec (.ldDtVx x) s = .next t ∧ t.dt = s.getV x ∧ ChangesOnly [] [.dt] s t) ∧
    (∃ t, exec (.ldStVx x) s = .next t ∧ t.st = s.getV x ∧ ChangesOnly [] [.st] s t)

/-- R183: `LD Vx, K` is word Fx0A; with keys held Vx becomes the number of the lowest one; with none held pc goes back
to the instruction's own address and nothing else changes. -/
def Obligations.KeyWaitTakesLowestHeldKey : Prop :=
  ∀ (x : Nibble) (s : State),
    decodeWord (formatI 0xF#4 x 0x0A) = .ldVxK x ∧
    (∀ k : Fin 16, s.key[k] = true → (∀ j : Fin 16, j < k → s.key[j] = false) →
      ∃ t, exec (.ldVxK x) s = .next t ∧ (t.getV x).toNat = k.val ∧ ChangesOnly [x] [] s t) ∧
    ((∀ k : Fin 16, s.key[k] = false) →
      ∃ t, exec (.ldVxK x) s = .next t ∧ t.pc = s.pc - 2 ∧ ChangesOnly [] [.pc] s t)

/-! ## Undefined words -/

/-- R190, R203 (D5: the timer step runs; D27: what the report carries; the `report` field is the model's, log entry 5):
an undefined word is a reported no-op. Its handler reports the word and its own address and does nothing else; its
cycle moves pc on by 2 and runs the timer step; and a cycle that runs a defined instruction reports nothing. -/
def Obligations.UndefinedWordIsReportedNoOp : Prop :=
  (∀ (w : Word) (s : State), isUndefinedWord w = true →
    ∃ t, exec (decodeWord w) s = .next t ∧ t.report = some ⟨w, s.pc - 2⟩ ∧ ChangesOnly [] [.report] s t) ∧
  (∀ s : State, s.canFetch → isUndefinedWord (s.wordAt s.pc.toNat) = true →
    ∃ t, step s = .next t ∧ t.pc = s.pc + 2 ∧ t.report = some ⟨s.wordAt s.pc.toNat, s.pc⟩ ∧
      t.dt = s.timerUpdate.dt ∧ t.st = s.timerUpdate.st ∧
      ChangesOnly [] [.pc, .dt, .st, .report] s t) ∧
  (∀ s t : State, isUndefinedWord (s.wordAt s.pc.toNat) = false → step s = .next t → t.report = none)

/-! ## The whole machine -/

/-- R10, R11, R14, R18 to R20, R22: what each of the 34 instructions leaves unchanged. A register is written only by an
instruction that has it as destination or writes it as the flag; every other piece of state only by the instructions
its rule names; and a byte of memory only by the store that addresses it. -/
def Obligations.InstructionFrames : Prop :=
  ∀ (i : Instr) (s t : State), exec i s = .next t →
    (∀ r, ¬ writesReg i r → t.getV r = s.getV r) ∧
    (∀ p, p ∉ writesPart i → p.same s t) ∧
    (∀ a, ¬ storesAt i s a → t.byteAt a = s.byteAt a)

/-- R19, R22, R24: no cycle writes the key latch, the parameters or the `load_error` port (log entry 15), sets the fault latch in a next state, or clears
`redraw`. -/
def Obligations.CycleKeepsHostInputs : Prop :=
  ∀ s t : State, step s = .next t →
    t.key = s.key ∧ t.config = s.config ∧ t.loadErrorPort = s.loadErrorPort ∧ t.fault = none ∧ (s.redraw = true → t.redraw = true)

/-- R19 (no instruction reads `redraw`), R203 (the program cannot observe a report), R260 (`load_error` is an output):
two states that differ only in `redraw`, the report port and the `load_error` port have the same cycle outcome but for
`redraw` and the `load_error` port, and the latter is as it was. -/
def Obligations.OutputsDoNotInfluenceCycle : Prop :=
  ∀ (s : State) (b : Bool) (p : Option Report) (e : LoadStatus),
    (∀ t, step s = .next t →
      ∃ b', step { s with redraw := b, report := p, loadError := e } = .next { t with redraw := b', loadError := e }) ∧
    (∀ f, step s = .fault f → step { s with redraw := b, report := p, loadError := e } = .fault f) ∧
    (∀ r, step s = .refused r → step { s with redraw := b, report := p, loadError := e } = .refused r)

/-- Every step keeps memory in its canonical form (the model's representation of R20's 4096 cells, log entry 3):
addresses rising, all below 4096, and no entry equal to what its address reads as unlisted. -/
def Obligations.MemoryStaysCanonical : Prop :=
  ∀ s t : State, s.memOk → step s = .next t → t.memOk

/-- The canonical form is one (log entry 3): two memories in canonical form that read the same at every address are
equal as data. -/
def Obligations.CanonicalMemoryIsUnique : Prop :=
  ∀ (c : Config) (m n : Memory), Memory.wf c m → Memory.wf c n → (∀ a, Memory.read c m a = Memory.read c n a) → m = n

/-- R12: every step keeps pc at or below 4098, so its 16 bits never wrap, and every stack entry at or below 4096. -/
def Obligations.PcNeverWraps : Prop :=
  ∀ s t : State, s.pcBounded → step s = .next t → t.pcBounded

/-- R12, R92, R262: every move of core and host together, faults, resets, loads and ticks included, keeps memory
canonical and, while no fault is latched, pc and the stack entries within R12's bounds. -/
def Obligations.SystemMovesKeepInvariant : Prop :=
  ∀ s t : State, s.systemOk → SystemMove s t → t.systemOk

/-- R206, R269: a fault and a report are never both there to be read. That holds after reset, and every move of core
and host keeps it, faulting cycles included. -/
def Obligations.FaultAndReportExcludeEachOther : Prop :=
  (∀ c : Config, (State.resetWith c).faultOrReport) ∧ ∀ s t : State, s.faultOrReport → SystemMove s t → t.faultOrReport

/-- R80, R204, R269: after a faulting cycle the `fault` port shows the cause and the `report` port nothing, and such a
state exists for every faulting cycle from a state whose memory is canonical. -/
def Obligations.FaultingCycleShowsFaultOnly : Prop :=
  ∀ (s : State) (c : OobCause), step s = .fault (.outOfBounds c) →
    (∀ t, SystemMove s t → (∃ m, s.hostMove m = some t) ∨ t.faultPort = some c ∧ t.reportPort = none) ∧
    (s.memOk → ∃ t, SystemMove s t ∧ t.faultPort = some c ∧ t.reportPort = none)

/-- The state after reset meets the invariants, for every choice of the parameters. -/
def Obligations.ResetMeetsInvariants : Prop :=
  ∀ c : Config, (State.resetWith c).systemOk ∧ (State.resetWith c).memOk ∧ (State.resetWith c).pcBounded ∧
    (State.resetWith c).fault = none

/-! ## Reset, load and the other host moves -/

/-- R26, R230 (D15, D21): the values every piece of state has after reset, and after a reset applied to any state,
faulted or not. FONT is a parameter (R48). -/
def Obligations.ResetValues : Prop :=
  ∀ (c : Config) (s : State),
    (∀ t ∈ [State.resetWith c, { s with config := c }.hostReset],
      (∀ r, t.getV r = 0) ∧ t.pc = 0x200 ∧ t.index = 0 ∧ t.sp.val = 0 ∧ (∀ k : Fin 16, t.stack[k] = 0) ∧
      t.dt = 0 ∧ t.st = 0 ∧
      (∀ a, a < 0x050 → t.byteAt a = 0) ∧ (∀ k : Fin 80, t.byteAt (0x050 + k.val) = c.font[k]) ∧
      (∀ a, 0x0A0 ≤ a → t.byteAt a = 0) ∧
      (∀ (px : Fin 64) (py : Fin 32), t.displayPort px py = false) ∧ t.redraw = false ∧
      (∀ k : Fin 16, t.key[k] = false) ∧ t.fault = none ∧ t.config = c)

/-- R205 (D15): once a fault is latched, no cycle and no host move but reset clears it. -/
def Obligations.LatchClearedOnlyByReset : Prop :=
  ∀ (s t : State) (c : OobCause), s.fault = some c → SystemMove s t → t.fault = some c ∨ t = s.hostReset

/-- R248 (D29): a machine parked at `a` stays parked there through any number of cycles, and nothing but the timers
(and the report port, which goes quiet) changes. -/
def Obligations.ParkedStaysParked : Prop :=
  ∀ (a : Addr12) (s : State), s.parkedAt a →
    ∀ k : Nat, ∃ t : State, Sys2Proof.core.run k s = .next t ∧ t.parkedAt a ∧
      ChangesOnly [] [.dt, .st, .report] s t

/-- R264 (D23), R260: an image of more than 3584 bytes is refused and the `load_error` port shows `CapacityExceeded`;
else its bytes are at 0x200 onwards and the port shows `Ok`; nothing else changes. -/
def Obligations.LoadCopiesImage : Prop :=
  ∀ (bytes : List Byte) (s : State),
    (3584 < bytes.length →
      (s.load bytes).loadErrorPort = .capacityExceeded ∧ ChangesOnly [] [.loadError] s (s.load bytes)) ∧
    (bytes.length ≤ 3584 →
      (s.load bytes).loadErrorPort = .ok ∧
      (∀ k, k < bytes.length → bytes[k]? = some ((s.load bytes).byteAt (0x200 + k))) ∧
      (∀ a, a < 0x200 ∨ 0x200 + bytes.length ≤ a → (s.load bytes).byteAt a = s.byteAt a) ∧
      ChangesOnly [] [.mem, .loadError] s (s.load bytes))

/-- R260: the `load_error` port shows the result of the last load. Every load sets it, and every other move of core
and host leaves it as it was (that a reset does, and that the port shows `Ok` before the first load, is the model's
choice, log entry 15). -/
def Obligations.LoadErrorPortShowsLastLoad : Prop :=
  (∀ c : Config, (State.resetWith c).loadErrorPort = .ok) ∧
  ∀ s : State,
    (∀ bytes : List Byte, ∃ t, s.hostMove (.load bytes) = some t ∧
      t.loadErrorPort = if 3584 < bytes.length then .capacityExceeded else .ok) ∧
    (∀ t, SystemMove s t → (∃ bytes, s.hostMove (.load bytes) = some t) ∨ t.loadErrorPort = s.loadErrorPort)

/-- R266 (D24), R267, R270 (D17): acknowledging clears `redraw` and nothing else; `sound_active` is `ST != 0`; writing
one latch entry sets that entry and nothing else. -/
def Obligations.HostPorts : Prop :=
  ∀ (s : State) (k : Nibble) (held : Bool),
    (s.redrawAck.redraw = false ∧ ChangesOnly [] [.redraw] s s.redrawAck) ∧
    (s.soundActive = true ↔ 0 < s.st.toNat) ∧
    ((s.writeKey k held).key[k.toNat]? = some held ∧
      (∀ j : Nat, j ≠ k.toNat → (s.writeKey k held).key[j]? = s.key[j]?) ∧ ChangesOnly [] [.key] s (s.writeKey k held))
end

