-- ==== Sys2Proof/Laws/Decode.lean ====
section
/-! SUPPORT. The fields of a word and the words of the formats as numbers, and each field of each format: the decoder
and the encoder are unfolded no further than this. -/

namespace Sys2Proof

/-! ## Fields as numbers (R61) -/

theorem toNat_fieldOp (w : Word) : (fieldOp w).toNat = w.toNat / 4096 := by
  have h := w.isLt
  simp only [fieldOp, BitVec.extractLsb'_toNat, Nat.shiftRight_eq_div_pow]
  omega

theorem toNat_fieldX (w : Word) : (fieldX w).toNat = w.toNat / 256 % 16 := by
  simp [fieldX, BitVec.extractLsb'_toNat, Nat.shiftRight_eq_div_pow]

theorem toNat_fieldY (w : Word) : (fieldY w).toNat = w.toNat / 16 % 16 := by
  simp [fieldY, BitVec.extractLsb'_toNat, Nat.shiftRight_eq_div_pow]

theorem toNat_fieldN (w : Word) : (fieldN w).toNat = w.toNat % 16 := by
  simp [fieldN, BitVec.extractLsb'_toNat]

theorem toNat_fieldKk (w : Word) : (fieldKk w).toNat = w.toNat % 256 := by
  simp [fieldKk, BitVec.extractLsb'_toNat]

theorem toNat_fieldNnn (w : Word) : (fieldNnn w).toNat = w.toNat % 4096 := by
  simp [fieldNnn, BitVec.extractLsb'_toNat]

/-! ## Formats as numbers (R62) -/

theorem toNat_formatA (op : Nibble) (nnn : Addr12) : (formatA op nnn).toNat = op.toNat * 4096 + nnn.toNat := by
  have hn := nnn.isLt
  change (op ++ nnn : BitVec (4 + 12)).toNat = _
  simp only [BitVec.toNat_append]
  rw [← Nat.shiftLeft_add_eq_or_of_lt hn, Nat.shiftLeft_eq]

theorem toNat_formatI (op x : Nibble) (kk : Byte) :
    (formatI op x kk).toNat = op.toNat * 4096 + x.toNat * 256 + kk.toNat := by
  have hx := x.isLt
  have hk := kk.isLt
  change (op ++ x ++ kk : BitVec (4 + 4 + 8)).toNat = _
  simp only [BitVec.toNat_append]
  rw [← Nat.shiftLeft_add_eq_or_of_lt hk, ← Nat.shiftLeft_add_eq_or_of_lt hx]
  simp only [Nat.shiftLeft_eq]
  omega

theorem toNat_formatR (op x y n : Nibble) :
    (formatR op x y n).toNat = op.toNat * 4096 + x.toNat * 256 + y.toNat * 16 + n.toNat := by
  have hx := x.isLt
  have hy := y.isLt
  have hn := n.isLt
  change (op ++ x ++ y ++ n : BitVec (4 + 4 + 4 + 4)).toNat = _
  simp only [BitVec.toNat_append]
  rw [← Nat.shiftLeft_add_eq_or_of_lt hn, ← Nat.shiftLeft_add_eq_or_of_lt hy, ← Nat.shiftLeft_add_eq_or_of_lt hx]
  simp only [Nat.shiftLeft_eq]
  omega

/-! ## Every field of every format -/

@[simp] theorem fieldOp_formatA (op : Nibble) (nnn : Addr12) : fieldOp (formatA op nnn) = op := by
  apply BitVec.eq_of_toNat_eq
  have h := nnn.isLt
  rw [toNat_fieldOp, toNat_formatA]
  omega

@[simp] theorem fieldNnn_formatA (op : Nibble) (nnn : Addr12) : fieldNnn (formatA op nnn) = nnn := by
  apply BitVec.eq_of_toNat_eq
  have h := nnn.isLt
  rw [toNat_fieldNnn, toNat_formatA]
  omega

@[simp] theorem fieldOp_formatI (op x : Nibble) (kk : Byte) : fieldOp (formatI op x kk) = op := by
  apply BitVec.eq_of_toNat_eq
  have hx := x.isLt
  have hk := kk.isLt
  rw [toNat_fieldOp, toNat_formatI]
  omega

@[simp] theorem fieldX_formatI (op x : Nibble) (kk : Byte) : fieldX (formatI op x kk) = x := by
  apply BitVec.eq_of_toNat_eq
  have hx := x.isLt
  have hk := kk.isLt
  rw [toNat_fieldX, toNat_formatI]
  omega

@[simp] theorem fieldKk_formatI (op x : Nibble) (kk : Byte) : fieldKk (formatI op x kk) = kk := by
  apply BitVec.eq_of_toNat_eq
  have hk := kk.isLt
  rw [toNat_fieldKk, toNat_formatI]
  omega

@[simp] theorem fieldOp_formatR (op x y n : Nibble) : fieldOp (formatR op x y n) = op := by
  apply BitVec.eq_of_toNat_eq
  have hx := x.isLt
  have hy := y.isLt
  have hn := n.isLt
  rw [toNat_fieldOp, toNat_formatR]
  omega

@[simp] theorem fieldX_formatR (op x y n : Nibble) : fieldX (formatR op x y n) = x := by
  apply BitVec.eq_of_toNat_eq
  have hx := x.isLt
  have hy := y.isLt
  have hn := n.isLt
  rw [toNat_fieldX, toNat_formatR]
  omega

@[simp] theorem fieldY_formatR (op x y n : Nibble) : fieldY (formatR op x y n) = y := by
  apply BitVec.eq_of_toNat_eq
  have hy := y.isLt
  have hn := n.isLt
  rw [toNat_fieldY, toNat_formatR]
  omega

@[simp] theorem fieldN_formatR (op x y n : Nibble) : fieldN (formatR op x y n) = n := by
  apply BitVec.eq_of_toNat_eq
  have hn := n.isLt
  rw [toNat_fieldN, toNat_formatR]
  omega

/-! ## A word from its fields -/

theorem formatA_fields (w : Word) : formatA (fieldOp w) (fieldNnn w) = w := by
  apply BitVec.eq_of_toNat_eq
  rw [toNat_formatA, toNat_fieldOp, toNat_fieldNnn]
  omega

theorem formatI_fields (w : Word) : formatI (fieldOp w) (fieldX w) (fieldKk w) = w := by
  apply BitVec.eq_of_toNat_eq
  rw [toNat_formatI, toNat_fieldOp, toNat_fieldX, toNat_fieldKk]
  omega

theorem formatR_fields (w : Word) : formatR (fieldOp w) (fieldX w) (fieldY w) (fieldN w) = w := by
  apply BitVec.eq_of_toNat_eq
  rw [toNat_formatR, toNat_fieldOp, toNat_fieldX, toNat_fieldY, toNat_fieldN]
  omega

/-! ## Bytes of a word (R46) -/

/-- A word laid out high byte first is read back from its two bytes. -/
theorem wordOfBytes_bytesOfWord (w : Word) : wordOfBytes (bytesOfWord w).1 (bytesOfWord w).2 = w := by
  apply BitVec.eq_of_toNat_eq
  have h := w.isLt
  have hl : ((bytesOfWord w).2).toNat < 2 ^ 8 := ((bytesOfWord w).2).isLt
  change ((bytesOfWord w).1 ++ (bytesOfWord w).2 : BitVec (8 + 8)).toNat = _
  rw [BitVec.toNat_append, ← Nat.shiftLeft_add_eq_or_of_lt hl, Nat.shiftLeft_eq]
  simp only [bytesOfWord, BitVec.extractLsb'_toNat, Nat.shiftRight_eq_div_pow]
  omega

end Sys2Proof
end

