-- ==== Sys2Proof/Laws/Graphics.lean ====
section
/-! SUPPORT. What the compositor does to each cell and to the collision flag (46_graphics.md R166): one bit, one row,
all rows. -/

namespace Sys2Proof.Machine

/-- A cell is known by its coordinates modulo 64 and 32. -/
theorem cellAt_congr (d : Display) {px py qx qy : Nat} (hx : qx % 64 = px % 64) (hy : qy % 32 = py % 32) :
    cellAt d qx qy = cellAt d px py := by
  simp only [cellAt, hx, hy]

/-- One composited bit toggles its own cell and no other. -/
theorem cellAt_plot (px py qx qy : Nat) (acc : Display × Bool) :
    cellAt (plot px py acc).1 qx qy =
      ((cellAt acc.1 qx qy) ^^ decide (qx % 64 = px % 64 ∧ qy % 32 = py % 32)) := by
  by_cases h : qx % 64 = px % 64 ∧ qy % 32 = py % 32
  · rw [cellAt_congr _ h.1 h.2, cellAt_congr _ h.1 h.2]
    simp [plot, cellAt, h]
  · have : 64 * (py % 32) + px % 64 ≠ 64 * (qy % 32) + qx % 64 := by omega
    simp [plot, cellAt, h, Vector.getElem_set_ne _ _ this]

/-- A composited bit records a collision when its cell was set. -/
theorem collided_plot (px py : Nat) (acc : Display × Bool) :
    (plot px py acc).2 = (acc.2 || cellAt acc.1 px py) := rfl

/-- How far a column lies right of `x0`, with wrap-around. -/
abbrev offsetX (x0 qx : Nat) : Nat := (qx + 64 - x0 % 64) % 64

/-- How far a row lies below `y0`, with wrap-around. -/
abbrev offsetY (y0 qy : Nat) : Nat := (qy + 32 - y0 % 32) % 32

/-- Does the row byte `b` at column `x0`, row `py` have a set bit, among its first `k`, on this cell? -/
def rowHits (x0 py : Nat) (b : Byte) (k qx qy : Nat) : Bool :=
  decide (qy % 32 = py % 32) && decide (offsetX x0 qx < k) && b.getLsbD (7 - offsetX x0 qx)

/-- One sprite row toggles exactly the cells it hits. -/
theorem cellAt_plotRow (x0 py : Nat) (b : Byte) (k : Nat) (hk : k ≤ 8) (qx qy : Nat) (acc : Display × Bool) :
    cellAt (plotRow x0 py b k acc).1 qx qy = (cellAt acc.1 qx qy ^^ rowHits x0 py b k qx qy) := by
  induction k with
  | zero => simp [plotRow, rowHits]
  | succ k ih =>
    have ih := ih (by omega)
    have hcol : (qx % 64 = (x0 + k) % 64) = (offsetX x0 qx = k) := by
      apply propext
      simp only [offsetX]
      omega
    have hlt : offsetX x0 qx < k + 1 ↔ offsetX x0 qx < k ∨ offsetX x0 qx = k := by omega
    simp only [plotRow]
    by_cases hb : b.getLsbD (7 - k)
    · simp only [hb, if_true, cellAt_plot, ih, hcol, rowHits, hlt]
      by_cases hy : qy % 32 = py % 32 <;> by_cases he : offsetX x0 qx = k <;> simp [hy, he, hb]
    · simp only [hb, Bool.false_eq_true, if_false, ih, rowHits, hlt]
      by_cases he : offsetX x0 qx = k
      · simp [he, hb]
      · simp [he]

/-- One sprite row collides exactly when it hits a set cell. -/
theorem collided_plotRow (x0 py : Nat) (b : Byte) (k : Nat) (hk : k ≤ 8) (acc : Display × Bool) :
    (plotRow x0 py b k acc).2 = true ↔
      acc.2 = true ∨ ∃ j, j < k ∧ b.getLsbD (7 - j) = true ∧ cellAt acc.1 (x0 + j) py = true := by
  induction k with
  | zero => simp [plotRow]
  | succ k ih =>
    have ih := ih (by omega)
    have hcell : cellAt (plotRow x0 py b k acc).1 (x0 + k) py = cellAt acc.1 (x0 + k) py := by
      have : ¬ offsetX x0 (x0 + k) < k := by simp only [offsetX]; omega
      simp [cellAt_plotRow x0 py b k (by omega), rowHits, this]
    have hlt : ∀ j, j < k + 1 ↔ j < k ∨ j = k := fun j => by omega
    simp only [plotRow]
    by_cases hb : b.getLsbD (7 - k) = true
    · simp only [hb, if_true, collided_plot, Bool.or_eq_true, ih, hcell, hlt, or_and_right, exists_or]
      simp only [exists_eq_left, hb, true_and, or_assoc]
    · rw [if_neg hb, ih]
      simp only [hlt, or_and_right, exists_or, exists_eq_left, hb, Bool.false_eq_true, false_and, or_false]

/-- Do the sprite rows `bs` at column `x0`, from row `py` down, have a set bit on this cell? -/
def rowsHit (x0 py : Nat) (bs : List Byte) (qx qy : Nat) : Bool :=
  decide (offsetX x0 qx < 8) && ((bs[offsetY py qy]?).getD 0).getLsbD (7 - offsetX x0 qx)

/-- A sprite of at most 32 rows toggles exactly the cells it hits: no two of its bits land on one cell. -/
theorem cellAt_plotRows (x0 py : Nat) (bs : List Byte) (hbs : bs.length ≤ 32) (qx qy : Nat) (acc : Display × Bool) :
    cellAt (plotRows x0 py bs acc).1 qx qy = (cellAt acc.1 qx qy ^^ rowsHit x0 py bs qx qy) := by
  induction bs generalizing py acc with
  | nil => simp [plotRows, rowsHit]
  | cons b bs ih =>
    simp only [List.length_cons] at hbs
    rw [plotRows, ih (py + 1) (by omega), cellAt_plotRow x0 py b 8 (by omega)]
    by_cases hy : qy % 32 = py % 32
    · have h0 : offsetY py qy = 0 := by simp only [offsetY]; omega
      have h1 : offsetY (py + 1) qy = 31 := by simp only [offsetY]; omega
      have h2 : bs[31]? = none := List.getElem?_eq_none (by omega)
      simp [rowHits, rowsHit, hy, h0, h1, h2]
    · have h0 : offsetY py qy = offsetY (py + 1) qy + 1 := by simp only [offsetY]; omega
      simp [rowHits, rowsHit, hy, h0]

/-- A sprite of at most 32 rows collides exactly when one of its set bits lies on a cell that was set before the
draw. -/
theorem collided_plotRows (x0 py : Nat) (bs : List Byte) (hbs : bs.length ≤ 32) (acc : Display × Bool) :
    (plotRows x0 py bs acc).2 = true ↔
      acc.2 = true ∨ ∃ r j, j < 8 ∧ ((bs[r]?).getD 0).getLsbD (7 - j) = true ∧ cellAt acc.1 (x0 + j) (py + r) = true := by
  induction bs generalizing py acc with
  | nil => simp [plotRows]
  | cons b bs ih =>
    simp only [List.length_cons] at hbs
    rw [plotRows, ih (py + 1) (by omega), collided_plotRow x0 py b 8 (by omega)]
    have hcell : ∀ r j, ((bs[r]?).getD 0).getLsbD (7 - j) = true →
        cellAt (plotRow x0 py b 8 acc).1 (x0 + j) (py + 1 + r) = cellAt acc.1 (x0 + j) (py + 1 + r) := by
      intro r j hr
      have hlen : r < bs.length := by
        by_contra hge
        simp [List.getElem?_eq_none (Nat.not_lt.mp hge)] at hr
      have : ¬ (py + 1 + r) % 32 = py % 32 := by omega
      simp [cellAt_plotRow x0 py b 8 (by omega), rowHits, this]
    constructor
    · rintro ((h | ⟨j, hj, hb, hc⟩) | ⟨r, j, hj, hb, hc⟩)
      · exact .inl h
      · exact .inr ⟨0, j, hj, by simpa using hb, by simpa using hc⟩
      · exact .inr ⟨r + 1, j, hj, by simpa using hb, by rw [hcell r j hb] at hc; rwa [Nat.add_right_comm] at hc⟩
    · rintro (h | ⟨r, j, hj, hb, hc⟩)
      · exact .inl (.inl h)
      · rcases r with _ | r
        · exact .inl (.inr ⟨j, hj, by simpa using hb, by simpa using hc⟩)
        · have hb : ((bs[r]?).getD 0).getLsbD (7 - j) = true := by simpa using hb
          refine .inr ⟨r, j, hj, hb, ?_⟩
          rw [hcell r j hb]
          rwa [Nat.add_right_comm]

end Sys2Proof.Machine
end

