-- ==== Sys2Proof/Laws/Memory.lean ====
section
/-! SUPPORT. The laws of memory: what a read sees after a write, and that every operation keeps the canonical form. -/

namespace Sys2Proof.Machine

/-! ## Listing and taking off -/

theorem Memory.lookup_insert (m : Memory) (a b : Nat) (v : Byte) :
    Memory.lookup b (Memory.insert a v m) = if b = a then some v else Memory.lookup b m := by
  induction m with
  | nil => simp [Memory.insert, Memory.lookup, eq_comm]
  | cons p m ih =>
    obtain ⟨c, w⟩ := p
    by_cases hb : b = a
    · subst hb
      simp only [Memory.insert]
      split_ifs with h1 h2 <;> simp_all [Memory.lookup, eq_comm]
    · have ha : ¬ a = b := fun e => hb e.symm
      simp only [Memory.insert]
      split_ifs with h1 h2 <;> simp_all [Memory.lookup]

theorem Memory.lookup_erase (m : Memory) (a b : Nat) :
    Memory.lookup b (Memory.erase a m) = if b = a then none else Memory.lookup b m := by
  induction m with
  | nil => simp [Memory.erase, Memory.lookup]
  | cons p m ih =>
    obtain ⟨c, w⟩ := p
    simp only [Memory.erase] at ih ⊢
    by_cases hc : c = a
    · subst hc
      simp only [ne_eq, not_true_eq_false, decide_false, Bool.false_eq_true, not_false_eq_true, List.filter_cons_of_neg, ih,
        Memory.lookup]
      split_ifs <;> simp_all
    · simp only [ne_eq, hc, not_false_eq_true, decide_true, List.filter_cons_of_pos, Memory.lookup, ih]
      split_ifs <;> simp_all

/-- A read after a write: the byte written at that address, and every other address as before (R41, R42). -/
theorem Memory.read_write (c : Config) (m : Memory) (a b : Nat) (v : Byte) :
    Memory.read c (Memory.write c m a v) b = if b = a then v else Memory.read c m b := by
  unfold Memory.read Memory.write
  split_ifs with h1 h2 h3 <;> simp_all [Memory.lookup_insert, Memory.lookup_erase]

/-! ## The canonical form -/

theorem Memory.wf_nil (c : Config) : Memory.wf c [] := by simp [Memory.wf]

theorem Memory.mem_insert {m : Memory} {a : Nat} {v : Byte} {p : Host.Cell} (h : p ∈ Memory.insert a v m) :
    p = (a, v) ∨ p ∈ m := by
  induction m with
  | nil => simpa [Memory.insert] using h
  | cons q m ih =>
    obtain ⟨b, w⟩ := q
    simp only [Memory.insert] at h
    split_ifs at h <;> simp only [List.mem_cons] at h ⊢ <;> tauto

theorem Memory.insert_sorted {m : Memory} (a : Nat) (v : Byte) (h : m.Pairwise fun p q => p.1 < q.1) :
    (Memory.insert a v m).Pairwise fun p q => p.1 < q.1 := by
  induction m with
  | nil => simp [Memory.insert]
  | cons q m ih =>
    obtain ⟨b, w⟩ := q
    obtain ⟨hb, hm⟩ := List.pairwise_cons.mp h
    simp only [Memory.insert]
    split_ifs with h1 h2
    · refine List.pairwise_cons.mpr ⟨fun p hp => ?_, h⟩
      rcases List.mem_cons.mp hp with rfl | hp
      · exact h1
      · exact Nat.lt_trans h1 (hb p hp)
    · exact List.pairwise_cons.mpr ⟨fun p hp => by simpa [h2] using hb p hp, hm⟩
    · refine List.pairwise_cons.mpr ⟨fun p hp => ?_, ih hm⟩
      rcases Memory.mem_insert hp with rfl | hp
      · show b < a
        omega
      · exact hb p hp

/-- A write inside memory keeps the canonical form. -/
theorem Memory.write_wf {c : Config} {m : Memory} {a : Nat} (v : Byte) (ha : a < memSize) (h : Memory.wf c m) :
    Memory.wf c (Memory.write c m a v) := by
  unfold Memory.write
  split_ifs with hv
  · refine ⟨h.1.filter _, fun p hp => h.2 p (List.mem_of_mem_filter hp)⟩
  · refine ⟨Memory.insert_sorted a v h.1, fun p hp => ?_⟩
    rcases Memory.mem_insert hp with rfl | hp
    · exact ⟨ha, hv⟩
    · exact h.2 p hp

/-- In the canonical form every listed pair is what a lookup of its address finds. -/
theorem Memory.lookup_eq_some_of_mem {m : Memory} {p : Host.Cell} (hs : m.Pairwise fun p q => p.1 < q.1) (h : p ∈ m) :
    Memory.lookup p.1 m = some p.2 := by
  induction m with
  | nil => simp at h
  | cons q m ih =>
    obtain ⟨b, w⟩ := q
    obtain ⟨hb, hm⟩ := List.pairwise_cons.mp hs
    rcases List.mem_cons.mp h with rfl | h
    · simp [Memory.lookup]
    · have : b ≠ p.1 := Nat.ne_of_lt (hb p h)
      simp [Memory.lookup, this, ih hm h]

/-! ## Through the state -/

theorem State.byteAt_putByte (s : State) (a b : Nat) (v : Byte) :
    (s.putByte a v).byteAt b = if b = a then v else s.byteAt b :=
  Memory.read_write s.config s.mem a b v

@[simp] theorem State.byteAt_putByte_same (s : State) (a : Nat) (v : Byte) : (s.putByte a v).byteAt a = v := by
  simp [State.byteAt_putByte]

/-- Everything a byte store can do (R42). -/
theorem State.memWrite_ok {s t : State} {a : Nat} {v : Byte} (h : s.memWrite a v = .ok t) :
    a < memSize ∧ t = s.putByte a v := by
  unfold State.memWrite at h
  split_ifs at h with ha
  exact ⟨by omega, (Except.ok.inj h).symm⟩

/-- Everything a byte read can do (R41). -/
theorem State.memRead_ok {s : State} {a : Nat} {b : Byte} (h : s.memRead a = .ok b) : a < memSize ∧ b = s.byteAt a := by
  unfold State.memRead at h
  split_ifs at h with ha
  exact ⟨by omega, (Except.ok.inj h).symm⟩

end Sys2Proof.Machine
end

