-- ==== Sys2Proof/Laws/State.lean ====
section
/-! SUPPORT. One lemma per field per update of State, true by rfl, and the reads that go through an accessor. -/

namespace Sys2Proof.Machine

/-! ## setV -/

@[simp] theorem State.setV_pc (s : State) (x : Nibble) (b : Byte) : (s.setV x b).pc = s.pc := rfl
@[simp] theorem State.setV_index (s : State) (x : Nibble) (b : Byte) : (s.setV x b).index = s.index := rfl
@[simp] theorem State.setV_sp (s : State) (x : Nibble) (b : Byte) : (s.setV x b).sp = s.sp := rfl
@[simp] theorem State.setV_stack (s : State) (x : Nibble) (b : Byte) : (s.setV x b).stack = s.stack := rfl
@[simp] theorem State.setV_dt (s : State) (x : Nibble) (b : Byte) : (s.setV x b).dt = s.dt := rfl
@[simp] theorem State.setV_st (s : State) (x : Nibble) (b : Byte) : (s.setV x b).st = s.st := rfl
@[simp] theorem State.setV_mem (s : State) (x : Nibble) (b : Byte) : (s.setV x b).mem = s.mem := rfl
@[simp] theorem State.setV_disp (s : State) (x : Nibble) (b : Byte) : (s.setV x b).disp = s.disp := rfl
@[simp] theorem State.setV_redraw (s : State) (x : Nibble) (b : Byte) : (s.setV x b).redraw = s.redraw := rfl
@[simp] theorem State.setV_key (s : State) (x : Nibble) (b : Byte) : (s.setV x b).key = s.key := rfl
@[simp] theorem State.setV_fault (s : State) (x : Nibble) (b : Byte) : (s.setV x b).fault = s.fault := rfl
@[simp] theorem State.setV_config (s : State) (x : Nibble) (b : Byte) : (s.setV x b).config = s.config := rfl
@[simp] theorem State.setV_draws (s : State) (x : Nibble) (b : Byte) : (s.setV x b).draws = s.draws := rfl
@[simp] theorem State.setV_report (s : State) (x : Nibble) (b : Byte) : (s.setV x b).report = s.report := rfl
@[simp] theorem State.setV_loadError (s : State) (x : Nibble) (b : Byte) : (s.setV x b).loadError = s.loadError := rfl
@[simp] theorem State.setV_byteAt (s : State) (x : Nibble) (b : Byte) (i : Nat) : (s.setV x b).byteAt i = s.byteAt i := rfl

/-! ## setFirstRegs -/

@[simp] theorem State.setFirstRegs_pc (s : State) (bs : List Byte) : (s.setFirstRegs bs).pc = s.pc := rfl
@[simp] theorem State.setFirstRegs_index (s : State) (bs : List Byte) : (s.setFirstRegs bs).index = s.index := rfl
@[simp] theorem State.setFirstRegs_sp (s : State) (bs : List Byte) : (s.setFirstRegs bs).sp = s.sp := rfl
@[simp] theorem State.setFirstRegs_stack (s : State) (bs : List Byte) : (s.setFirstRegs bs).stack = s.stack := rfl
@[simp] theorem State.setFirstRegs_dt (s : State) (bs : List Byte) : (s.setFirstRegs bs).dt = s.dt := rfl
@[simp] theorem State.setFirstRegs_st (s : State) (bs : List Byte) : (s.setFirstRegs bs).st = s.st := rfl
@[simp] theorem State.setFirstRegs_mem (s : State) (bs : List Byte) : (s.setFirstRegs bs).mem = s.mem := rfl
@[simp] theorem State.setFirstRegs_disp (s : State) (bs : List Byte) : (s.setFirstRegs bs).disp = s.disp := rfl
@[simp] theorem State.setFirstRegs_redraw (s : State) (bs : List Byte) : (s.setFirstRegs bs).redraw = s.redraw := rfl
@[simp] theorem State.setFirstRegs_key (s : State) (bs : List Byte) : (s.setFirstRegs bs).key = s.key := rfl
@[simp] theorem State.setFirstRegs_fault (s : State) (bs : List Byte) : (s.setFirstRegs bs).fault = s.fault := rfl
@[simp] theorem State.setFirstRegs_config (s : State) (bs : List Byte) : (s.setFirstRegs bs).config = s.config := rfl
@[simp] theorem State.setFirstRegs_draws (s : State) (bs : List Byte) : (s.setFirstRegs bs).draws = s.draws := rfl
@[simp] theorem State.setFirstRegs_report (s : State) (bs : List Byte) : (s.setFirstRegs bs).report = s.report := rfl
@[simp] theorem State.setFirstRegs_loadError (s : State) (bs : List Byte) : (s.setFirstRegs bs).loadError = s.loadError := rfl
@[simp] theorem State.setFirstRegs_byteAt (s : State) (bs : List Byte) (i : Nat) : (s.setFirstRegs bs).byteAt i = s.byteAt i := rfl

/-! ## putByte -/

@[simp] theorem State.putByte_v (s : State) (a : Nat) (b : Byte) : (s.putByte a b).v = s.v := rfl
@[simp] theorem State.putByte_pc (s : State) (a : Nat) (b : Byte) : (s.putByte a b).pc = s.pc := rfl
@[simp] theorem State.putByte_index (s : State) (a : Nat) (b : Byte) : (s.putByte a b).index = s.index := rfl
@[simp] theorem State.putByte_sp (s : State) (a : Nat) (b : Byte) : (s.putByte a b).sp = s.sp := rfl
@[simp] theorem State.putByte_stack (s : State) (a : Nat) (b : Byte) : (s.putByte a b).stack = s.stack := rfl
@[simp] theorem State.putByte_dt (s : State) (a : Nat) (b : Byte) : (s.putByte a b).dt = s.dt := rfl
@[simp] theorem State.putByte_st (s : State) (a : Nat) (b : Byte) : (s.putByte a b).st = s.st := rfl
@[simp] theorem State.putByte_mem (s : State) (a : Nat) (b : Byte) : (s.putByte a b).mem = Memory.write s.config s.mem a b := rfl
@[simp] theorem State.putByte_disp (s : State) (a : Nat) (b : Byte) : (s.putByte a b).disp = s.disp := rfl
@[simp] theorem State.putByte_redraw (s : State) (a : Nat) (b : Byte) : (s.putByte a b).redraw = s.redraw := rfl
@[simp] theorem State.putByte_key (s : State) (a : Nat) (b : Byte) : (s.putByte a b).key = s.key := rfl
@[simp] theorem State.putByte_fault (s : State) (a : Nat) (b : Byte) : (s.putByte a b).fault = s.fault := rfl
@[simp] theorem State.putByte_config (s : State) (a : Nat) (b : Byte) : (s.putByte a b).config = s.config := rfl
@[simp] theorem State.putByte_draws (s : State) (a : Nat) (b : Byte) : (s.putByte a b).draws = s.draws := rfl
@[simp] theorem State.putByte_report (s : State) (a : Nat) (b : Byte) : (s.putByte a b).report = s.report := rfl
@[simp] theorem State.putByte_loadError (s : State) (a : Nat) (b : Byte) : (s.putByte a b).loadError = s.loadError := rfl
@[simp] theorem State.putByte_getV (s : State) (a : Nat) (b : Byte) (r : Nibble) : (s.putByte a b).getV r = s.getV r := rfl

/-! ## jumpTo -/

@[simp] theorem State.jumpTo_v (s : State) (nnn : Addr12) : (s.jumpTo nnn).v = s.v := rfl
@[simp] theorem State.jumpTo_pc (s : State) (nnn : Addr12) : (s.jumpTo nnn).pc = nnn.setWidth 16 := rfl
@[simp] theorem State.jumpTo_index (s : State) (nnn : Addr12) : (s.jumpTo nnn).index = s.index := rfl
@[simp] theorem State.jumpTo_sp (s : State) (nnn : Addr12) : (s.jumpTo nnn).sp = s.sp := rfl
@[simp] theorem State.jumpTo_stack (s : State) (nnn : Addr12) : (s.jumpTo nnn).stack = s.stack := rfl
@[simp] theorem State.jumpTo_dt (s : State) (nnn : Addr12) : (s.jumpTo nnn).dt = s.dt := rfl
@[simp] theorem State.jumpTo_st (s : State) (nnn : Addr12) : (s.jumpTo nnn).st = s.st := rfl
@[simp] theorem State.jumpTo_mem (s : State) (nnn : Addr12) : (s.jumpTo nnn).mem = s.mem := rfl
@[simp] theorem State.jumpTo_disp (s : State) (nnn : Addr12) : (s.jumpTo nnn).disp = s.disp := rfl
@[simp] theorem State.jumpTo_redraw (s : State) (nnn : Addr12) : (s.jumpTo nnn).redraw = s.redraw := rfl
@[simp] theorem State.jumpTo_key (s : State) (nnn : Addr12) : (s.jumpTo nnn).key = s.key := rfl
@[simp] theorem State.jumpTo_fault (s : State) (nnn : Addr12) : (s.jumpTo nnn).fault = s.fault := rfl
@[simp] theorem State.jumpTo_config (s : State) (nnn : Addr12) : (s.jumpTo nnn).config = s.config := rfl
@[simp] theorem State.jumpTo_draws (s : State) (nnn : Addr12) : (s.jumpTo nnn).draws = s.draws := rfl
@[simp] theorem State.jumpTo_report (s : State) (nnn : Addr12) : (s.jumpTo nnn).report = s.report := rfl
@[simp] theorem State.jumpTo_loadError (s : State) (nnn : Addr12) : (s.jumpTo nnn).loadError = s.loadError := rfl
@[simp] theorem State.jumpTo_byteAt (s : State) (nnn : Addr12) (i : Nat) : (s.jumpTo nnn).byteAt i = s.byteAt i := rfl
@[simp] theorem State.jumpTo_getV (s : State) (nnn : Addr12) (r : Nibble) : (s.jumpTo nnn).getV r = s.getV r := rfl

/-! ## beginCycle -/

@[simp] theorem State.beginCycle_v (s : State) : s.beginCycle.v = s.v := rfl
@[simp] theorem State.beginCycle_pc (s : State) : s.beginCycle.pc = s.pc + 2 := rfl
@[simp] theorem State.beginCycle_index (s : State) : s.beginCycle.index = s.index := rfl
@[simp] theorem State.beginCycle_sp (s : State) : s.beginCycle.sp = s.sp := rfl
@[simp] theorem State.beginCycle_stack (s : State) : s.beginCycle.stack = s.stack := rfl
@[simp] theorem State.beginCycle_dt (s : State) : s.beginCycle.dt = s.dt := rfl
@[simp] theorem State.beginCycle_st (s : State) : s.beginCycle.st = s.st := rfl
@[simp] theorem State.beginCycle_mem (s : State) : s.beginCycle.mem = s.mem := rfl
@[simp] theorem State.beginCycle_disp (s : State) : s.beginCycle.disp = s.disp := rfl
@[simp] theorem State.beginCycle_redraw (s : State) : s.beginCycle.redraw = s.redraw := rfl
@[simp] theorem State.beginCycle_key (s : State) : s.beginCycle.key = s.key := rfl
@[simp] theorem State.beginCycle_fault (s : State) : s.beginCycle.fault = s.fault := rfl
@[simp] theorem State.beginCycle_config (s : State) : s.beginCycle.config = s.config := rfl
@[simp] theorem State.beginCycle_draws (s : State) : s.beginCycle.draws = s.draws := rfl
@[simp] theorem State.beginCycle_report (s : State) : s.beginCycle.report = none := rfl
@[simp] theorem State.beginCycle_loadError (s : State) : s.beginCycle.loadError = s.loadError := rfl
@[simp] theorem State.beginCycle_byteAt (s : State) (i : Nat) : s.beginCycle.byteAt i = s.byteAt i := rfl
@[simp] theorem State.beginCycle_getV (s : State) (r : Nibble) : s.beginCycle.getV r = s.getV r := rfl

/-! ## tickBoth -/

@[simp] theorem State.tickBoth_v (s : State) : s.tickBoth.v = s.v := rfl
@[simp] theorem State.tickBoth_pc (s : State) : s.tickBoth.pc = s.pc := rfl
@[simp] theorem State.tickBoth_index (s : State) : s.tickBoth.index = s.index := rfl
@[simp] theorem State.tickBoth_sp (s : State) : s.tickBoth.sp = s.sp := rfl
@[simp] theorem State.tickBoth_stack (s : State) : s.tickBoth.stack = s.stack := rfl
@[simp] theorem State.tickBoth_dt (s : State) : s.tickBoth.dt = countDown s.dt := rfl
@[simp] theorem State.tickBoth_st (s : State) : s.tickBoth.st = countDown s.st := rfl
@[simp] theorem State.tickBoth_mem (s : State) : s.tickBoth.mem = s.mem := rfl
@[simp] theorem State.tickBoth_disp (s : State) : s.tickBoth.disp = s.disp := rfl
@[simp] theorem State.tickBoth_redraw (s : State) : s.tickBoth.redraw = s.redraw := rfl
@[simp] theorem State.tickBoth_key (s : State) : s.tickBoth.key = s.key := rfl
@[simp] theorem State.tickBoth_fault (s : State) : s.tickBoth.fault = s.fault := rfl
@[simp] theorem State.tickBoth_config (s : State) : s.tickBoth.config = s.config := rfl
@[simp] theorem State.tickBoth_draws (s : State) : s.tickBoth.draws = s.draws := rfl
@[simp] theorem State.tickBoth_report (s : State) : s.tickBoth.report = s.report := rfl
@[simp] theorem State.tickBoth_loadError (s : State) : s.tickBoth.loadError = s.loadError := rfl
@[simp] theorem State.tickBoth_byteAt (s : State) (i : Nat) : s.tickBoth.byteAt i = s.byteAt i := rfl
@[simp] theorem State.tickBoth_getV (s : State) (r : Nibble) : s.tickBoth.getV r = s.getV r := rfl

/-! ## redrawAck -/

@[simp] theorem State.redrawAck_v (s : State) : s.redrawAck.v = s.v := rfl
@[simp] theorem State.redrawAck_pc (s : State) : s.redrawAck.pc = s.pc := rfl
@[simp] theorem State.redrawAck_index (s : State) : s.redrawAck.index = s.index := rfl
@[simp] theorem State.redrawAck_sp (s : State) : s.redrawAck.sp = s.sp := rfl
@[simp] theorem State.redrawAck_stack (s : State) : s.redrawAck.stack = s.stack := rfl
@[simp] theorem State.redrawAck_dt (s : State) : s.redrawAck.dt = s.dt := rfl
@[simp] theorem State.redrawAck_st (s : State) : s.redrawAck.st = s.st := rfl
@[simp] theorem State.redrawAck_mem (s : State) : s.redrawAck.mem = s.mem := rfl
@[simp] theorem State.redrawAck_disp (s : State) : s.redrawAck.disp = s.disp := rfl
@[simp] theorem State.redrawAck_redraw (s : State) : s.redrawAck.redraw = false := rfl
@[simp] theorem State.redrawAck_key (s : State) : s.redrawAck.key = s.key := rfl
@[simp] theorem State.redrawAck_fault (s : State) : s.redrawAck.fault = s.fault := rfl
@[simp] theorem State.redrawAck_config (s : State) : s.redrawAck.config = s.config := rfl
@[simp] theorem State.redrawAck_draws (s : State) : s.redrawAck.draws = s.draws := rfl
@[simp] theorem State.redrawAck_report (s : State) : s.redrawAck.report = s.report := rfl
@[simp] theorem State.redrawAck_loadError (s : State) : s.redrawAck.loadError = s.loadError := rfl
@[simp] theorem State.redrawAck_byteAt (s : State) (i : Nat) : s.redrawAck.byteAt i = s.byteAt i := rfl
@[simp] theorem State.redrawAck_getV (s : State) (r : Nibble) : s.redrawAck.getV r = s.getV r := rfl

/-! ## writeKeys -/

@[simp] theorem State.writeKeys_v (s : State) (keys : Vector Bool 16) : (s.writeKeys keys).v = s.v := rfl
@[simp] theorem State.writeKeys_pc (s : State) (keys : Vector Bool 16) : (s.writeKeys keys).pc = s.pc := rfl
@[simp] theorem State.writeKeys_index (s : State) (keys : Vector Bool 16) : (s.writeKeys keys).index = s.index := rfl
@[simp] theorem State.writeKeys_sp (s : State) (keys : Vector Bool 16) : (s.writeKeys keys).sp = s.sp := rfl
@[simp] theorem State.writeKeys_stack (s : State) (keys : Vector Bool 16) : (s.writeKeys keys).stack = s.stack := rfl
@[simp] theorem State.writeKeys_dt (s : State) (keys : Vector Bool 16) : (s.writeKeys keys).dt = s.dt := rfl
@[simp] theorem State.writeKeys_st (s : State) (keys : Vector Bool 16) : (s.writeKeys keys).st = s.st := rfl
@[simp] theorem State.writeKeys_mem (s : State) (keys : Vector Bool 16) : (s.writeKeys keys).mem = s.mem := rfl
@[simp] theorem State.writeKeys_disp (s : State) (keys : Vector Bool 16) : (s.writeKeys keys).disp = s.disp := rfl
@[simp] theorem State.writeKeys_redraw (s : State) (keys : Vector Bool 16) : (s.writeKeys keys).redraw = s.redraw := rfl
@[simp] theorem State.writeKeys_key (s : State) (keys : Vector Bool 16) : (s.writeKeys keys).key = keys := rfl
@[simp] theorem State.writeKeys_fault (s : State) (keys : Vector Bool 16) : (s.writeKeys keys).fault = s.fault := rfl
@[simp] theorem State.writeKeys_config (s : State) (keys : Vector Bool 16) : (s.writeKeys keys).config = s.config := rfl
@[simp] theorem State.writeKeys_draws (s : State) (keys : Vector Bool 16) : (s.writeKeys keys).draws = s.draws := rfl
@[simp] theorem State.writeKeys_report (s : State) (keys : Vector Bool 16) : (s.writeKeys keys).report = s.report := rfl
@[simp] theorem State.writeKeys_loadError (s : State) (keys : Vector Bool 16) : (s.writeKeys keys).loadError = s.loadError := rfl
@[simp] theorem State.writeKeys_byteAt (s : State) (keys : Vector Bool 16) (i : Nat) : (s.writeKeys keys).byteAt i = s.byteAt i := rfl
@[simp] theorem State.writeKeys_getV (s : State) (keys : Vector Bool 16) (r : Nibble) : (s.writeKeys keys).getV r = s.getV r := rfl

/-! ## writeKey -/

@[simp] theorem State.writeKey_v (s : State) (k : Nibble) (held : Bool) : (s.writeKey k held).v = s.v := rfl
@[simp] theorem State.writeKey_pc (s : State) (k : Nibble) (held : Bool) : (s.writeKey k held).pc = s.pc := rfl
@[simp] theorem State.writeKey_index (s : State) (k : Nibble) (held : Bool) : (s.writeKey k held).index = s.index := rfl
@[simp] theorem State.writeKey_sp (s : State) (k : Nibble) (held : Bool) : (s.writeKey k held).sp = s.sp := rfl
@[simp] theorem State.writeKey_stack (s : State) (k : Nibble) (held : Bool) : (s.writeKey k held).stack = s.stack := rfl
@[simp] theorem State.writeKey_dt (s : State) (k : Nibble) (held : Bool) : (s.writeKey k held).dt = s.dt := rfl
@[simp] theorem State.writeKey_st (s : State) (k : Nibble) (held : Bool) : (s.writeKey k held).st = s.st := rfl
@[simp] theorem State.writeKey_mem (s : State) (k : Nibble) (held : Bool) : (s.writeKey k held).mem = s.mem := rfl
@[simp] theorem State.writeKey_disp (s : State) (k : Nibble) (held : Bool) : (s.writeKey k held).disp = s.disp := rfl
@[simp] theorem State.writeKey_redraw (s : State) (k : Nibble) (held : Bool) : (s.writeKey k held).redraw = s.redraw := rfl
@[simp] theorem State.writeKey_fault (s : State) (k : Nibble) (held : Bool) : (s.writeKey k held).fault = s.fault := rfl
@[simp] theorem State.writeKey_config (s : State) (k : Nibble) (held : Bool) : (s.writeKey k held).config = s.config := rfl
@[simp] theorem State.writeKey_draws (s : State) (k : Nibble) (held : Bool) : (s.writeKey k held).draws = s.draws := rfl
@[simp] theorem State.writeKey_report (s : State) (k : Nibble) (held : Bool) : (s.writeKey k held).report = s.report := rfl
@[simp] theorem State.writeKey_loadError (s : State) (k : Nibble) (held : Bool) : (s.writeKey k held).loadError = s.loadError := rfl
@[simp] theorem State.writeKey_byteAt (s : State) (k : Nibble) (held : Bool) (i : Nat) : (s.writeKey k held).byteAt i = s.byteAt i := rfl
@[simp] theorem State.writeKey_getV (s : State) (k : Nibble) (held : Bool) (r : Nibble) : (s.writeKey k held).getV r = s.getV r := rfl

/-! ## skipIf, sharedSlot and timerUpdate, whose change depends on the state -/

@[simp] theorem State.skipIf_v (s : State) (b : Bool) : (s.skipIf b).v = s.v := by cases b <;> rfl
@[simp] theorem State.skipIf_index (s : State) (b : Bool) : (s.skipIf b).index = s.index := by cases b <;> rfl
@[simp] theorem State.skipIf_sp (s : State) (b : Bool) : (s.skipIf b).sp = s.sp := by cases b <;> rfl
@[simp] theorem State.skipIf_stack (s : State) (b : Bool) : (s.skipIf b).stack = s.stack := by cases b <;> rfl
@[simp] theorem State.skipIf_dt (s : State) (b : Bool) : (s.skipIf b).dt = s.dt := by cases b <;> rfl
@[simp] theorem State.skipIf_st (s : State) (b : Bool) : (s.skipIf b).st = s.st := by cases b <;> rfl
@[simp] theorem State.skipIf_mem (s : State) (b : Bool) : (s.skipIf b).mem = s.mem := by cases b <;> rfl
@[simp] theorem State.skipIf_disp (s : State) (b : Bool) : (s.skipIf b).disp = s.disp := by cases b <;> rfl
@[simp] theorem State.skipIf_redraw (s : State) (b : Bool) : (s.skipIf b).redraw = s.redraw := by cases b <;> rfl
@[simp] theorem State.skipIf_key (s : State) (b : Bool) : (s.skipIf b).key = s.key := by cases b <;> rfl
@[simp] theorem State.skipIf_fault (s : State) (b : Bool) : (s.skipIf b).fault = s.fault := by cases b <;> rfl
@[simp] theorem State.skipIf_config (s : State) (b : Bool) : (s.skipIf b).config = s.config := by cases b <;> rfl
@[simp] theorem State.skipIf_draws (s : State) (b : Bool) : (s.skipIf b).draws = s.draws := by cases b <;> rfl
@[simp] theorem State.skipIf_report (s : State) (b : Bool) : (s.skipIf b).report = s.report := by cases b <;> rfl
@[simp] theorem State.skipIf_loadError (s : State) (b : Bool) : (s.skipIf b).loadError = s.loadError := by cases b <;> rfl
@[simp] theorem State.skipIf_pc (s : State) (b : Bool) : (s.skipIf b).pc = if b then s.pc + 2 else s.pc := by
  cases b <;> rfl
@[simp] theorem State.skipIf_getV (s : State) (b : Bool) (r : Nibble) : (s.skipIf b).getV r = s.getV r := by
  cases b <;> rfl
@[simp] theorem State.skipIf_byteAt (s : State) (b : Bool) (a : Nat) : (s.skipIf b).byteAt a = s.byteAt a := by
  cases b <;> rfl

@[simp] theorem State.sharedSlot_v (s : State) : s.sharedSlot.v = s.v := by
  unfold State.sharedSlot; split_ifs <;> rfl
@[simp] theorem State.sharedSlot_pc (s : State) : s.sharedSlot.pc = s.pc := by
  unfold State.sharedSlot; split_ifs <;> rfl
@[simp] theorem State.sharedSlot_index (s : State) : s.sharedSlot.index = s.index := by
  unfold State.sharedSlot; split_ifs <;> rfl
@[simp] theorem State.sharedSlot_sp (s : State) : s.sharedSlot.sp = s.sp := by
  unfold State.sharedSlot; split_ifs <;> rfl
@[simp] theorem State.sharedSlot_stack (s : State) : s.sharedSlot.stack = s.stack := by
  unfold State.sharedSlot; split_ifs <;> rfl
@[simp] theorem State.sharedSlot_mem (s : State) : s.sharedSlot.mem = s.mem := by
  unfold State.sharedSlot; split_ifs <;> rfl
@[simp] theorem State.sharedSlot_disp (s : State) : s.sharedSlot.disp = s.disp := by
  unfold State.sharedSlot; split_ifs <;> rfl
@[simp] theorem State.sharedSlot_redraw (s : State) : s.sharedSlot.redraw = s.redraw := by
  unfold State.sharedSlot; split_ifs <;> rfl
@[simp] theorem State.sharedSlot_key (s : State) : s.sharedSlot.key = s.key := by
  unfold State.sharedSlot; split_ifs <;> rfl
@[simp] theorem State.sharedSlot_fault (s : State) : s.sharedSlot.fault = s.fault := by
  unfold State.sharedSlot; split_ifs <;> rfl
@[simp] theorem State.sharedSlot_config (s : State) : s.sharedSlot.config = s.config := by
  unfold State.sharedSlot; split_ifs <;> rfl
@[simp] theorem State.sharedSlot_draws (s : State) : s.sharedSlot.draws = s.draws := by
  unfold State.sharedSlot; split_ifs <;> rfl
@[simp] theorem State.sharedSlot_report (s : State) : s.sharedSlot.report = s.report := by
  unfold State.sharedSlot; split_ifs <;> rfl
@[simp] theorem State.sharedSlot_loadError (s : State) : s.sharedSlot.loadError = s.loadError := by
  unfold State.sharedSlot; split_ifs <;> rfl
@[simp] theorem State.sharedSlot_st (s : State) : s.sharedSlot.st = countDown s.st := by
  unfold State.sharedSlot countDown; split_ifs <;> simp_all
@[simp] theorem State.sharedSlot_dt (s : State) : s.sharedSlot.dt = if s.st = 0 then countDown s.dt else s.dt := by
  unfold State.sharedSlot countDown; split_ifs <;> simp_all

@[simp] theorem State.timerUpdate_v (s : State) : s.timerUpdate.v = s.v := by
  unfold State.timerUpdate; split <;> simp
@[simp] theorem State.timerUpdate_pc (s : State) : s.timerUpdate.pc = s.pc := by
  unfold State.timerUpdate; split <;> simp
@[simp] theorem State.timerUpdate_index (s : State) : s.timerUpdate.index = s.index := by
  unfold State.timerUpdate; split <;> simp
@[simp] theorem State.timerUpdate_sp (s : State) : s.timerUpdate.sp = s.sp := by
  unfold State.timerUpdate; split <;> simp
@[simp] theorem State.timerUpdate_stack (s : State) : s.timerUpdate.stack = s.stack := by
  unfold State.timerUpdate; split <;> simp
@[simp] theorem State.timerUpdate_mem (s : State) : s.timerUpdate.mem = s.mem := by
  unfold State.timerUpdate; split <;> simp
@[simp] theorem State.timerUpdate_disp (s : State) : s.timerUpdate.disp = s.disp := by
  unfold State.timerUpdate; split <;> simp
@[simp] theorem State.timerUpdate_redraw (s : State) : s.timerUpdate.redraw = s.redraw := by
  unfold State.timerUpdate; split <;> simp
@[simp] theorem State.timerUpdate_key (s : State) : s.timerUpdate.key = s.key := by
  unfold State.timerUpdate; split <;> simp
@[simp] theorem State.timerUpdate_fault (s : State) : s.timerUpdate.fault = s.fault := by
  unfold State.timerUpdate; split <;> simp
@[simp] theorem State.timerUpdate_config (s : State) : s.timerUpdate.config = s.config := by
  unfold State.timerUpdate; split <;> simp
@[simp] theorem State.timerUpdate_draws (s : State) : s.timerUpdate.draws = s.draws := by
  unfold State.timerUpdate; split <;> simp
@[simp] theorem State.timerUpdate_report (s : State) : s.timerUpdate.report = s.report := by
  unfold State.timerUpdate; split <;> simp
@[simp] theorem State.timerUpdate_loadError (s : State) : s.timerUpdate.loadError = s.loadError := by
  unfold State.timerUpdate; split <;> simp
@[simp] theorem State.timerUpdate_getV (s : State) (r : Nibble) : s.timerUpdate.getV r = s.getV r := by
  simp [State.getV]
@[simp] theorem State.timerUpdate_byteAt (s : State) (a : Nat) : s.timerUpdate.byteAt a = s.byteAt a := by
  simp [State.byteAt]

/-! ## Registers -/

theorem State.getV_setV (s : State) (x r : Nibble) (b : Byte) :
    (s.setV x b).getV r = if r = x then b else s.getV r := by
  simp only [State.getV, State.setV, Vector.getElem_set]
  by_cases h : r = x
  · simp [h]
  · simp [h, show x.toNat ≠ r.toNat from fun e => h (BitVec.eq_of_toNat_eq e.symm)]

@[simp] theorem State.getV_setV_same (s : State) (x : Nibble) (b : Byte) : (s.setV x b).getV x = b := by
  simp [State.getV_setV]

theorem State.getV_setV_ne (s : State) {x r : Nibble} (b : Byte) (h : r ≠ x) : (s.setV x b).getV r = s.getV r := by
  simp [State.getV_setV, h]

/-- A block load writes the first registers, as many as there are bytes, and no other (R151). -/
theorem State.getV_setFirstRegs (s : State) (bs : List Byte) (r : Nibble) :
    (s.setFirstRegs bs).getV r = (bs[r.toNat]?).getD (s.getV r) := by
  simp [State.getV, State.setFirstRegs]

/-- The k-th of the first registers is V[k] (R150). -/
theorem State.firstRegs_get (s : State) (n : Nat) (r : Nibble) (h : r.toNat < n) :
    (s.firstRegs n)[r.toNat]? = some (s.getV r) := by
  have hr : r.toNat < 16 := r.isLt
  simp [State.firstRegs, State.getV, h, hr]

theorem State.firstRegs_length (s : State) (n : Nat) (h : n ≤ 16) : (s.firstRegs n).length = n := by
  simp [State.firstRegs, h]

/-! ## Reset -/

@[simp] theorem State.resetWith_byteAt (c : Config) (a : Nat) : (State.resetWith c).byteAt a = c.background a := rfl

@[simp] theorem State.hostReset_config (s : State) : s.hostReset.config = s.config := rfl
@[simp] theorem State.hostReset_draws (s : State) : s.hostReset.draws = s.draws := rfl
@[simp] theorem State.hostReset_loadError (s : State) : s.hostReset.loadError = s.loadError := rfl
@[simp] theorem State.hostReset_report (s : State) : s.hostReset.report = none := rfl
@[simp] theorem State.hostReset_fault (s : State) : s.hostReset.fault = none := rfl
@[simp] theorem State.hostReset_mem (s : State) : s.hostReset.mem = [] := rfl
@[simp] theorem State.hostReset_pc (s : State) : s.hostReset.pc = 0x200#16 := rfl

end Sys2Proof.Machine
end

