-- ==== Sys2Proof/Laws/Ops.lean ====
section
/-! SUPPORT. One lemma per shared operation that says everything it can do; later proofs cite these and unfold the
operation no more. -/

namespace Sys2Proof.Machine

/-! ## Block stores and loads (R43) -/

/-- Stores that all lie in memory succeed. -/
theorem State.storeBytes_succeeds (a : Nat) (bs : List Byte) (s : State) (h : a + bs.length ≤ memSize) :
    ∃ t, State.storeBytes a bs s = .ok t := by
  induction bs generalizing a s with
  | nil => exact ⟨s, rfl⟩
  | cons b bs ih =>
    simp only [List.length_cons] at h
    have ha : ¬ memSize ≤ a := by omega
    obtain ⟨t, ht⟩ := ih (a + 1) (s.putByte a b) (by omega)
    exact ⟨t, by simp [State.storeBytes, State.memWrite, ha, ht]⟩

/-- Everything a completed block store did: it changed memory only, every byte of the range holds its new byte, and
every other byte is as before. The range lay in memory unless it was empty. -/
theorem State.storeBytes_spec {a : Nat} {bs : List Byte} {s t : State} (h : State.storeBytes a bs s = .ok t) :
    (bs = [] ∨ a + bs.length ≤ memSize) ∧ t = { s with mem := t.mem } ∧
      (∀ i, t.byteAt i = if a ≤ i then (bs[i - a]?).getD (s.byteAt i) else s.byteAt i) ∧
      (Memory.wf s.config s.mem → Memory.wf s.config t.mem) := by
  induction bs generalizing a s with
  | nil =>
    obtain rfl := Except.ok.inj h
    simp
  | cons b bs ih =>
    rcases hw : s.memWrite a b with c | u
    · simp [State.storeBytes, hw] at h
    · simp only [State.storeBytes, hw] at h
      obtain ⟨ha, rfl⟩ := State.memWrite_ok hw
      obtain ⟨hlen, heq, hbytes, hwf⟩ := ih h
      refine ⟨Or.inr ?_, ?_, fun i => ?_, fun hm => ?_⟩
      · rcases hlen with rfl | hlen
        · simpa using ha
        · simp only [List.length_cons]; omega
      · rw [heq]; rfl
      · rw [hbytes i, State.byteAt_putByte]
        rcases Nat.lt_trichotomy i a with hi | rfl | hi
        · simp [Nat.not_le.mpr hi, show ¬ a + 1 ≤ i by omega, Nat.ne_of_lt hi]
        · simp
        · obtain ⟨k, rfl⟩ : ∃ k, i = a + 1 + k := ⟨i - (a + 1), by omega⟩
          simp [show a ≤ a + 1 + k by omega, show a + 1 + k - a = k + 1 by omega, show a + 1 + k ≠ a by omega]
      · exact hwf (Memory.write_wf b ha hm)

/-- A store that starts in memory and runs past its end faults with `MemWrite`. -/
theorem State.storeBytes_faults (a : Nat) (bs : List Byte) (s : State) (hne : bs ≠ []) (h : memSize < a + bs.length) :
    State.storeBytes a bs s = .error .memWrite := by
  induction bs generalizing a s with
  | nil => exact absurd rfl hne
  | cons b bs ih =>
    by_cases ha : memSize ≤ a
    · simp [State.storeBytes, State.memWrite, ha]
    · simp only [List.length_cons] at h
      have : bs ≠ [] := by rintro rfl; simp at h; omega
      simp [State.storeBytes, State.memWrite, ha, ih (a + 1) (s.putByte a b) this (by omega)]

/-- Everything a block load can answer: the bytes of the range where it lies in memory (or is empty), else
`MemRead`. -/
theorem State.loadBytes_eq (s : State) (a n : Nat) :
    s.loadBytes a n =
      if n = 0 ∨ a + n ≤ memSize then .ok ((List.range' a n).map s.byteAt) else .error .memRead := by
  induction n generalizing a with
  | zero => simp [State.loadBytes]
  | succ n ih =>
    by_cases ha : memSize ≤ a
    · have : ¬ (n + 1 = 0 ∨ a + (n + 1) ≤ memSize) := by omega
      simp only [State.loadBytes, State.memRead, ha, if_true, this, if_false]
    · by_cases hn : n = 0 ∨ a + 1 + n ≤ memSize
      · have : n + 1 = 0 ∨ a + (n + 1) ≤ memSize := by omega
        simp only [State.loadBytes, State.memRead, ha, if_false, ih, hn, if_true, this, List.range'_succ, List.map_cons]
      · have : ¬ (n + 1 = 0 ∨ a + (n + 1) ≤ memSize) := by omega
        simp only [State.loadBytes, State.memRead, ha, if_false, ih, hn, this]

/-- Everything a copy of bytes into memory does (R264): it changes memory only, every byte of the range holds its new
byte, every other byte is as before, and in memory's range it keeps the canonical form. -/
theorem State.putBytes_spec (a : Nat) (bs : List Byte) (s : State) :
    State.putBytes a bs s = { s with mem := (State.putBytes a bs s).mem } ∧
      (∀ i, (State.putBytes a bs s).byteAt i = if a ≤ i then (bs[i - a]?).getD (s.byteAt i) else s.byteAt i) ∧
      (a + bs.length ≤ memSize → Memory.wf s.config s.mem → Memory.wf s.config (State.putBytes a bs s).mem) := by
  induction bs generalizing a s with
  | nil => simp [State.putBytes]
  | cons b bs ih =>
    obtain ⟨heq, hbytes, hwf⟩ := ih (a + 1) (s.putByte a b)
    refine ⟨by rw [State.putBytes, heq]; rfl, fun i => ?_, fun hl hm => ?_⟩
    · rw [State.putBytes, hbytes i, State.byteAt_putByte]
      rcases Nat.lt_trichotomy i a with hi | rfl | hi
      · simp [Nat.not_le.mpr hi, show ¬ a + 1 ≤ i by omega, Nat.ne_of_lt hi]
      · simp
      · obtain ⟨k, rfl⟩ : ∃ k, i = a + 1 + k := ⟨i - (a + 1), by omega⟩
        simp [show a ≤ a + 1 + k by omega, show a + 1 + k - a = k + 1 by omega, show a + 1 + k ≠ a by omega]
    · simp only [List.length_cons] at hl
      exact hwf (by omega) (Memory.write_wf b (by omega) hm)

/-! ## Faults (R204) -/

/-- A handler built on memory accesses gives a next state exactly when they all succeed. -/
theorem complete_next {r : Except OobCause State} {t : State} : complete r = .next t ↔ r = .ok t := by
  cases r <;> simp [complete, raiseOutOfBounds]

theorem complete_fault {r : Except OobCause State} {c : OobCause} :
    complete r = .fault (.outOfBounds c) ↔ r = .error c := by
  cases r <;> simp [complete, raiseOutOfBounds]

/-- A cycle ends in a next state exactly when its handler does, one timer step later (R85). -/
theorem endCycle_next {r : Result} {t : State} : endCycle r = .next t ↔ ∃ u, r = .next u ∧ t = u.timerUpdate := by
  cases r <;> simp [endCycle, eq_comm]

/-! ## Stack (R101, R102) -/

/-- Everything a push can do. -/
theorem State.pushPc_spec (s : State) :
    (s.sp.val = 16 ∧ s.pushPc = .error .stackOverflow) ∨
    ∃ h : s.sp.val < 16,
      s.pushPc = .ok { s with stack := s.stack.set s.sp.val s.pc h, sp := ⟨s.sp.val + 1, by omega⟩ } := by
  have := s.sp.isLt
  by_cases h : s.sp.val < 16
  · exact .inr ⟨h, by simp [State.pushPc, h]⟩
  · exact .inl ⟨by omega, by simp [State.pushPc, h]⟩

/-- Everything a pop can do. -/
theorem State.popPc_spec (s : State) :
    (s.sp.val = 0 ∧ s.popPc = .error .stackUnderflow) ∨
    ∃ h : 0 < s.sp.val,
      s.popPc = .ok { s with sp := ⟨s.sp.val - 1, by omega⟩, pc := s.stack[s.sp.val - 1]'(by omega) } := by
  by_cases h : 0 < s.sp.val
  · exact .inr ⟨h, by simp [State.popPc, h]⟩
  · exact .inl ⟨by omega, by simp [State.popPc, h]⟩

/-! ## Keys (R107, R108, R183) -/

/-- Everything a key test can answer. -/
theorem State.keyHeld_spec (s : State) (k : Byte) :
    (15 < k.toNat ∧ s.keyHeld k = .error .keyIndex) ∨
    ∃ h : k.toNat < 16, s.keyHeld k = .ok (s.key[k.toNat]'h) := by
  by_cases h : k.toNat < 16
  · exact .inr ⟨h, by simp [State.keyHeld, h]⟩
  · exact .inl ⟨by omega, by simp [State.keyHeld, h]⟩

/-- Everything the key scan can answer: the lowest held key, or none when no key is held. -/
theorem State.lowestHeld_spec (s : State) :
    (s.lowestHeld = none ∧ ∀ k : Fin 16, s.key[k] = false) ∨
    ∃ k : Fin 16, s.lowestHeld = some k.val ∧ s.key[k] = true ∧ ∀ j : Fin 16, j < k → s.key[j] = false := by
  unfold State.lowestHeld
  rcases h : s.key.toList.findIdx? id with _ | k
  · refine .inl ⟨rfl, fun k => ?_⟩
    rw [List.findIdx?_eq_none_iff] at h
    have := h s.key[k] (by simp)
    simpa using this
  · obtain ⟨hk, hheld, hlow⟩ := List.findIdx?_eq_some_iff_getElem.mp h
    have hk16 : k < 16 := by simpa using hk
    refine .inr ⟨⟨k, hk16⟩, rfl, by simpa using hheld, fun j hj => ?_⟩
    have := hlow j.val hj
    simpa using this

/-! ## Flags (R11, R132) -/

theorem flagByte_true : flagByte true = 1 := rfl

theorem flagByte_false : flagByte false = 0 := rfl

/-- Result and flag together: VF holds the flag whatever the destination, another destination holds the result, and
the other registers are as before. -/
theorem State.getV_setResultAndFlag (s : State) (x r : Nibble) (b : Byte) (f : Bool) :
    (s.setResultAndFlag x b f).getV r = if r = vF then flagByte f else if r = x then b else s.getV r := by
  simp only [State.setResultAndFlag, State.getV_setV]

/-! ## Fetch (R81, R82) -/

/-- Everything a fetch can answer. -/
theorem State.fetchWord_eq (s : State) :
    s.fetchWord =
      if s.pc.toNat ≤ 4094 then .ok (wordOfBytes (s.byteAt s.pc.toNat) (s.byteAt (s.pc.toNat + 1)))
      else .error .fetch := by
  unfold State.fetchWord State.memRead
  by_cases h : s.pc.toNat ≤ 4094
  · have h0 : ¬ memSize ≤ s.pc.toNat := by unfold memSize; omega
    have h1 : ¬ memSize ≤ s.pc.toNat + 1 := by unfold memSize; omega
    simp [Nat.not_lt.mpr h, h, h0, h1]
  · simp [Nat.lt_of_not_le h, h]

/-- A word placed at pc is the word fetched there. -/
theorem State.fetchWord_placeWord (s : State) (w : Word) (h : s.pc.toNat ≤ 4094) :
    (s.placeWord w).fetchWord = .ok (wordOfBytes (bytesOfWord w).1 (bytesOfWord w).2) := by
  have hp : s.placeWord w =
      (s.putByte s.pc.toNat (bytesOfWord w).1).putByte (s.pc.toNat + 1) (bytesOfWord w).2 := by
    simp [State.placeWord, Nat.not_lt.mpr h]
  rw [State.fetchWord_eq, hp]
  simp [State.byteAt_putByte, h]

end Sys2Proof.Machine
end

