-- ==== Sys2Proof/Laws/PerInstr.lean ====
section
/-! SUPPORT. Statements about every instruction, one lemma per constructor: each instruction's word is selected by its
own row of spec/opcode_table.json. -/

namespace Sys2Proof

/-- The `mask` and `match` of each instruction's row in spec/opcode_table.json; UNIMPL's is the fallback row. -/
def Instr.row : Instr → OpcodeRow
  | .cls        => ⟨"CLS", 0xFFFF, 0x00E0⟩
  | .ret        => ⟨"RET", 0xFFFF, 0x00EE⟩
  | .jp _       => ⟨"JP_nnn", 0xF000, 0x1000⟩
  | .call _     => ⟨"CALL_nnn", 0xF000, 0x2000⟩
  | .seImm _ _  => ⟨"SE_Vx__kk", 0xF000, 0x3000⟩
  | .sneImm _ _ => ⟨"SNE_Vx__kk", 0xF000, 0x4000⟩
  | .seReg _ _  => ⟨"SE_Vx__Vy", 0xF00F, 0x5000⟩
  | .ldImm _ _  => ⟨"LD_Vx__kk", 0xF000, 0x6000⟩
  | .addImm _ _ => ⟨"ADD_Vx__kk", 0xF000, 0x7000⟩
  | .ldReg _ _  => ⟨"LD_Vx__Vy", 0xF00F, 0x8000⟩
  | .or _ _     => ⟨"OR_Vx__Vy", 0xF00F, 0x8001⟩
  | .and _ _    => ⟨"AND_Vx__Vy", 0xF00F, 0x8002⟩
  | .xor _ _    => ⟨"XOR_Vx__Vy", 0xF00F, 0x8003⟩
  | .addReg _ _ => ⟨"ADD_Vx__Vy", 0xF00F, 0x8004⟩
  | .sub _ _    => ⟨"SUB_Vx__Vy", 0xF00F, 0x8005⟩
  | .shr _ _    => ⟨"SHR_Vx", 0xF00F, 0x8006⟩
  | .subn _ _   => ⟨"SUBN_Vx__Vy", 0xF00F, 0x8007⟩
  | .shl _ _    => ⟨"SHL_Vx", 0xF00F, 0x800E⟩
  | .sneReg _ _ => ⟨"SNE_Vx__Vy", 0xF00F, 0x9000⟩
  | .ldI _      => ⟨"LD_I__nnn", 0xF000, 0xA000⟩
  | .rnd _ _    => ⟨"RND_Vx__kk", 0xF000, 0xC000⟩
  | .drw _ _ _  => ⟨"DRW_Vx__Vy__n", 0xF000, 0xD000⟩
  | .skp _      => ⟨"SKP_Vx", 0xF0FF, 0xE09E⟩
  | .sknp _     => ⟨"SKNP_Vx", 0xF0FF, 0xE0A1⟩
  | .ldVxDt _   => ⟨"LD_Vx__DT", 0xF0FF, 0xF007⟩
  | .ldVxK _    => ⟨"LD_Vx__K", 0xF0FF, 0xF00A⟩
  | .ldDtVx _   => ⟨"LD_DT__Vx", 0xF0FF, 0xF015⟩
  | .ldStVx _   => ⟨"LD_ST__Vx", 0xF0FF, 0xF018⟩
  | .addI _     => ⟨"ADD_I__Vx", 0xF0FF, 0xF01E⟩
  | .ldF _      => ⟨"LD_F__Vx", 0xF0FF, 0xF029⟩
  | .ldB _      => ⟨"LD_B__Vx", 0xF0FF, 0xF033⟩
  | .stRegs _   => ⟨"LD__I___Vx", 0xF0FF, 0xF055⟩
  | .ldRegs _   => ⟨"LD_Vx___I", 0xF0FF, 0xF065⟩
  | .unimpl _   => ⟨"UNIMPL", 0x0000, 0x0000⟩

/-! ## The masks of the table on the formats -/

theorem mask_formatA (op : Nibble) (nnn : Addr12) : formatA op nnn &&& 0xF000#16 = formatA op 0 := by
  change (op ++ nnn : BitVec (4 + 12)) &&& (0xF#4 ++ 0x000#12 : BitVec (4 + 12)) = (op ++ 0#12 : BitVec (4 + 12))
  rw [BitVec.and_append, show (0xF#4 : Nibble) = BitVec.allOnes 4 from rfl, BitVec.and_allOnes, BitVec.and_zero]

theorem mask_formatI (op x : Nibble) (kk : Byte) : formatI op x kk &&& 0xF000#16 = formatI op 0 0 := by
  change (op ++ x ++ kk : BitVec (4 + 4 + 8)) &&& (0xF#4 ++ 0x0#4 ++ 0x00#8 : BitVec (4 + 4 + 8)) =
    (op ++ 0#4 ++ 0#8 : BitVec (4 + 4 + 8))
  rw [BitVec.and_append, BitVec.and_append, show (0xF#4 : Nibble) = BitVec.allOnes 4 from rfl,
    BitVec.and_allOnes, BitVec.and_zero, BitVec.and_zero]

theorem mask_formatX (op x : Nibble) (kk : Byte) : formatI op x kk &&& 0xF0FF#16 = formatI op 0 kk := by
  change (op ++ x ++ kk : BitVec (4 + 4 + 8)) &&& (0xF#4 ++ 0x0#4 ++ 0xFF#8 : BitVec (4 + 4 + 8)) =
    (op ++ 0#4 ++ kk : BitVec (4 + 4 + 8))
  rw [BitVec.and_append, BitVec.and_append, show (0xF#4 : Nibble) = BitVec.allOnes 4 from rfl,
    show (0xFF#8 : Byte) = BitVec.allOnes 8 from rfl, BitVec.and_allOnes, BitVec.and_zero, BitVec.and_allOnes]

theorem mask_formatR (op x y n : Nibble) : formatR op x y n &&& 0xF00F#16 = formatR op 0 0 n := by
  change (op ++ x ++ y ++ n : BitVec (4 + 4 + 4 + 4)) &&& (0xF#4 ++ 0x0#4 ++ 0x0#4 ++ 0xF#4 : BitVec (4 + 4 + 4 + 4)) =
    (op ++ 0#4 ++ 0#4 ++ n : BitVec (4 + 4 + 4 + 4))
  rw [BitVec.and_append, BitVec.and_append, BitVec.and_append, show (0xF#4 : Nibble) = BitVec.allOnes 4 from rfl,
    BitVec.and_allOnes, BitVec.and_allOnes, BitVec.and_zero, BitVec.and_zero]

theorem mask_formatS (op x y n : Nibble) : formatR op x y n &&& 0xF000#16 = formatR op 0 0 0 := by
  change (op ++ x ++ y ++ n : BitVec (4 + 4 + 4 + 4)) &&& (0xF#4 ++ 0x0#4 ++ 0x0#4 ++ 0x0#4 : BitVec (4 + 4 + 4 + 4)) =
    (op ++ 0#4 ++ 0#4 ++ 0#4 : BitVec (4 + 4 + 4 + 4))
  rw [BitVec.and_append, BitVec.and_append, BitVec.and_append, show (0xF#4 : Nibble) = BitVec.allOnes 4 from rfl,
    BitVec.and_allOnes, BitVec.and_zero, BitVec.and_zero, BitVec.and_zero]

namespace Laws.RowMatch

/-- The instruction's word has the bits its table row fixes, and the row is the one with its mnemonic. -/
def Statement (i : Instr) : Prop := encode i &&& i.row.mask = i.row.pattern ∧ i.row.mnemonic = i.mnemonic

theorem cls : Statement .cls := ⟨by decide, rfl⟩
theorem ret : Statement .ret := ⟨by decide, rfl⟩
theorem jp (nnn : Addr12) : Statement (.jp nnn) := ⟨mask_formatA 1 nnn, rfl⟩
theorem call (nnn : Addr12) : Statement (.call nnn) := ⟨mask_formatA 2 nnn, rfl⟩
theorem seImm (x : Nibble) (kk : Byte) : Statement (.seImm x kk) := ⟨mask_formatI 3 x kk, rfl⟩
theorem sneImm (x : Nibble) (kk : Byte) : Statement (.sneImm x kk) := ⟨mask_formatI 4 x kk, rfl⟩
theorem seReg (x y : Nibble) : Statement (.seReg x y) := ⟨mask_formatR 5 x y 0, rfl⟩
theorem ldImm (x : Nibble) (kk : Byte) : Statement (.ldImm x kk) := ⟨mask_formatI 6 x kk, rfl⟩
theorem addImm (x : Nibble) (kk : Byte) : Statement (.addImm x kk) := ⟨mask_formatI 7 x kk, rfl⟩
theorem ldReg (x y : Nibble) : Statement (.ldReg x y) := ⟨mask_formatR 8 x y 0, rfl⟩
theorem or (x y : Nibble) : Statement (.or x y) := ⟨mask_formatR 8 x y 1, rfl⟩
theorem and (x y : Nibble) : Statement (.and x y) := ⟨mask_formatR 8 x y 2, rfl⟩
theorem xor (x y : Nibble) : Statement (.xor x y) := ⟨mask_formatR 8 x y 3, rfl⟩
theorem addReg (x y : Nibble) : Statement (.addReg x y) := ⟨mask_formatR 8 x y 4, rfl⟩
theorem sub (x y : Nibble) : Statement (.sub x y) := ⟨mask_formatR 8 x y 5, rfl⟩
theorem shr (x y : Nibble) : Statement (.shr x y) := ⟨mask_formatR 8 x y 6, rfl⟩
theorem subn (x y : Nibble) : Statement (.subn x y) := ⟨mask_formatR 8 x y 7, rfl⟩
theorem shl (x y : Nibble) : Statement (.shl x y) := ⟨mask_formatR 8 x y 0xE, rfl⟩
theorem sneReg (x y : Nibble) : Statement (.sneReg x y) := ⟨mask_formatR 9 x y 0, rfl⟩
theorem ldI (nnn : Addr12) : Statement (.ldI nnn) := ⟨mask_formatA 0xA nnn, rfl⟩
theorem rnd (x : Nibble) (kk : Byte) : Statement (.rnd x kk) := ⟨mask_formatI 0xC x kk, rfl⟩
theorem drw (x y n : Nibble) : Statement (.drw x y n) := ⟨mask_formatS 0xD x y n, rfl⟩
theorem skp (x : Nibble) : Statement (.skp x) := ⟨mask_formatX 0xE x 0x9E, rfl⟩
theorem sknp (x : Nibble) : Statement (.sknp x) := ⟨mask_formatX 0xE x 0xA1, rfl⟩
theorem ldVxDt (x : Nibble) : Statement (.ldVxDt x) := ⟨mask_formatX 0xF x 0x07, rfl⟩
theorem ldVxK (x : Nibble) : Statement (.ldVxK x) := ⟨mask_formatX 0xF x 0x0A, rfl⟩
theorem ldDtVx (x : Nibble) : Statement (.ldDtVx x) := ⟨mask_formatX 0xF x 0x15, rfl⟩
theorem ldStVx (x : Nibble) : Statement (.ldStVx x) := ⟨mask_formatX 0xF x 0x18, rfl⟩
theorem addI (x : Nibble) : Statement (.addI x) := ⟨mask_formatX 0xF x 0x1E, rfl⟩
theorem ldF (x : Nibble) : Statement (.ldF x) := ⟨mask_formatX 0xF x 0x29, rfl⟩
theorem ldB (x : Nibble) : Statement (.ldB x) := ⟨mask_formatX 0xF x 0x33, rfl⟩
theorem stRegs (x : Nibble) : Statement (.stRegs x) := ⟨mask_formatX 0xF x 0x55, rfl⟩
theorem ldRegs (x : Nibble) : Statement (.ldRegs x) := ⟨mask_formatX 0xF x 0x65, rfl⟩
theorem unimpl (w : Word) : Statement (.unimpl w) := ⟨BitVec.and_zero, rfl⟩

end Laws.RowMatch

end Sys2Proof
end

