-- ==== Sys2Proof/Laws/Step.lean ====
section
/-! SUPPORT. What a completed cycle is made of: an invariant of `step` is an invariant of `beginCycle`, of every
instruction's meaning, and of `timerUpdate`. -/

namespace Sys2Proof.Machine

/-- Everything a completed cycle did: no fault was latched, pc was in range, the fetched word's instruction completed
from the advanced state, and the timer step followed (R80 to R85). -/
theorem step_next {s t : State} (h : step s = .next t) :
    s.canFetch ∧ ∃ u, exec s.nextInstr s.beginCycle = .next u ∧ t = u.timerUpdate := by
  unfold step at h
  split at h
  · simp [refuseCycle] at h
  · rename_i hf
    rw [State.fetchWord_eq] at h
    by_cases hp : s.pc.toNat ≤ 4094
    · simp only [hp, if_true] at h
      exact ⟨⟨hf, hp⟩, endCycle_next.mp h⟩
    · simp [hp, raiseOutOfBounds] at h

/-- The instruction placed for the host's question is the one the next cycle executes. -/
theorem step_withFetchWord (s : State) (nbits w : Nat) (h : s.canFetch) :
    step (s.withFetchWord nbits w) =
      endCycle (exec (decodeWord (BitVec.ofNat 16 (w % 2 ^ nbits))) (s.withFetchWord nbits w).beginCycle) := by
  have hf : (s.withFetchWord nbits w).fault = none := by
    unfold State.withFetchWord State.placeWord
    split <;> simp [h.1]
  have hw := State.fetchWord_placeWord s (BitVec.ofNat 16 (w % 2 ^ nbits)) h.2
  rw [wordOfBytes_bytesOfWord] at hw
  unfold step
  split
  · simp_all
  · simp only [State.withFetchWord] at hw ⊢
    rw [hw]

end Sys2Proof.Machine
end

