-- ==== Sys2Proof/Tests/Slice0.lean ====
section
/-! SUPPORT. Tests: the WellFormed smoke test, a word of every instruction, one-step tests, and a witness for every
obligation that has hypotheses. Expected values are the spec's (95_test_vectors.md; the vector is named in each
docstring), or read off the rule named. -/

namespace Sys2Proof.Tests

open Sys2Proof.Machine

/-! ## Helpers -/

/-- Registers set, one after the other. -/
def regs (l : List (Nibble × Byte)) (s : State) : State := l.foldl (fun t p => t.setV p.1 p.2) s

/-- Bytes of memory set at a, a+1, ... -/
def bytes (a : Nat) (l : List Byte) (s : State) : State := State.putBytes a l s

/-- The word placed where the next cycle fetches. -/
def placed (w : Nat) (s : State) : State := s.withFetchWord 16 w

/-- The outcome is a next state of which `p` holds. -/
def nextHas (p : State → Bool) : Result → Bool
  | .next t    => p t
  | .fault _   => false
  | .refused _ => false

/-- One cycle of word `w` from `s` gives a next state of which `p` holds. -/
def cycle (w : Nat) (s : State) (p : State → Bool) : Bool := nextHas p (step (placed w s))

/-- The next state of one cycle of word `w`, or `s` itself if there is none. -/
def run1 (w : Nat) (s : State) : State :=
  match step (placed w s) with
  | .next t    => t
  | .fault _   => s
  | .refused _ => s

/-- One cycle of word `w` from `s` faults with this cause. -/
def faults (w : Nat) (s : State) (c : OobCause) : Bool :=
  match step (placed w s) with
  | .next _                 => false
  | .fault (.outOfBounds d) => d == c
  | .refused _              => false

/-- The reset state. -/
abbrev s0 : State := State.reset

/-- The reset state of a machine with the other timer policy. -/
def s0Tick : State := State.resetWith ⟨.independentTick, Config.defaultFont⟩

/-- The reset state, faulted. -/
def sFault : State := { s0 with fault := some .fetch }

/-! ## WellFormed -/

/-- UNIMPL must not carry a defined word (R67). -/
theorem test_wf_unimpl_cls : (Instr.unimpl 0x00E0).wellFormed = false := by decide
/-- Of each family with undefined words, a defined word is refused in UNIMPL. -/
theorem test_wf_unimpl_defined :
    [0x00EE#16, 0x1000#16, 0x5120#16, 0x812E#16, 0x9120#16, 0xC000#16, 0xD000#16, 0xE19E#16, 0xE1A1#16, 0xF165#16].all
      (fun w => !(Instr.unimpl w).wellFormed) = true := by decide
/-- Undefined words of section 2.1. -/
theorem test_wf_unimpl_undefined :
    [0x00E1#16, 0x0000#16, 0x5121#16, 0x8128#16, 0x9121#16, 0xB123#16, 0xE19F#16, 0xF100#16, 0xFFFF#16].all
      (fun w => (Instr.unimpl w).wellFormed) = true := by decide

/-! ## Decode: a word of every instruction, written from R66's patterns and section 2.1 -/

theorem test_decode_family0 : decodeWord 0x00E0 = .cls ∧ decodeWord 0x00EE = .ret := by decide
theorem test_decode_jp : decodeWord 0x1FFF = .jp 0xFFF := by decide
theorem test_decode_call : decodeWord 0x2300 = .call 0x300 := by decide
theorem test_decode_skip_imm : decodeWord 0x332A = .seImm 3 0x2A ∧ decodeWord 0x432A = .sneImm 3 0x2A := by decide
theorem test_decode_skip_reg : decodeWord 0x5120 = .seReg 1 2 ∧ decodeWord 0x9120 = .sneReg 1 2 := by decide
theorem test_decode_imm : decodeWord 0x6A02 = .ldImm 0xA 0x02 ∧ decodeWord 0x7302 = .addImm 3 0x02 := by decide
theorem test_decode_family8_low :
    decodeWord 0x8120 = .ldReg 1 2 ∧ decodeWord 0x8121 = .or 1 2 ∧ decodeWord 0x8122 = .and 1 2 ∧
    decodeWord 0x8123 = .xor 1 2 := by decide
theorem test_decode_family8_high :
    decodeWord 0x8124 = .addReg 1 2 ∧ decodeWord 0x8125 = .sub 1 2 ∧ decodeWord 0x8126 = .shr 1 2 ∧
    decodeWord 0x8127 = .subn 1 2 ∧ decodeWord 0x812E = .shl 1 2 := by decide
theorem test_decode_index : decodeWord 0xA2F0 = .ldI 0x2F0 ∧ decodeWord 0xF21E = .addI 2 ∧ decodeWord 0xF329 = .ldF 3 ∧
    decodeWord 0xF333 = .ldB 3 := by decide
theorem test_decode_rnd : decodeWord 0xC30F = .rnd 3 0x0F := by decide
theorem test_decode_drw : decodeWord 0xD125 = .drw 1 2 5 ∧ decodeWord 0xD000 = .drw 0 0 0 := by decide
theorem test_decode_familyE : decodeWord 0xE19E = .skp 1 ∧ decodeWord 0xE1A1 = .sknp 1 := by decide
theorem test_decode_timer_key :
    decodeWord 0xF107 = .ldVxDt 1 ∧ decodeWord 0xF10A = .ldVxK 1 ∧ decodeWord 0xF115 = .ldDtVx 1 ∧
    decodeWord 0xF118 = .ldStVx 1 := by decide
theorem test_decode_block : decodeWord 0xF155 = .stRegs 1 ∧ decodeWord 0xF165 = .ldRegs 1 := by decide
theorem test_decode_undefined :
    [0x00E1#16, 0x0000#16, 0x0123#16, 0x00FE#16, 0x5121#16, 0x512F#16, 0x8128#16, 0x812F#16, 0x9121#16, 0xB123#16,
     0xE19F#16, 0xE100#16, 0xE1A0#16, 0xF100#16, 0xF175#16, 0xF185#16, 0xF1FF#16, 0xF156#16, 0xFFFF#16].all
      (fun w => decodeWord w == .unimpl w) = true := by decide
/-- R60: an instruction is two bytes, high byte first; one byte is none. -/
theorem test_decode_bytes :
    decodeBytes [0x12, 0x34, 0x56] = .ok (.jp 0x234, [0x56]) ∧ decodeBytes [0x12] = .error (.truncated 1) := by decide
theorem test_decode_table_word :
    decodeTableWord 16 0xF165 = some (.ldRegs 1) ∧ decodeTableWord 24 0xF165 = none := by decide
/-- The encoder against the same patterns. -/
theorem test_encode : encode (.jp 0xFFF) = 0x1FFF ∧ encode (.seImm 3 0x2A) = 0x332A ∧ encode (.shl 1 2) = 0x812E ∧
    encode (.drw 1 2 5) = 0xD125 ∧ encode (.ldRegs 1) = 0xF165 := by decide

/-! ## Cycle and fetch (section 2.2) -/

/-- FE1. -/
theorem test_fetch_high_byte_first :
    nextHas (fun t => t.pc == 0x234) (step (bytes 0x200 [0x12, 0x34] s0)) = true := by decide
/-- FE2: an odd address is legal. -/
theorem test_fetch_odd :
    cycle 0x602A { s0 with pc := 0x201 } (fun t => t.getV 0 == 0x2A && t.pc == 0x203) = true := by decide
/-- FE3, S12: 4094 is the last address a cycle fetches from. -/
theorem test_fetch_last :
    cycle 0x6007 { s0 with pc := 4094 } (fun t => t.getV 0 == 7 && t.pc == 4096) = true := by decide
/-- FE4. -/
theorem test_fetch_beyond : step { s0 with pc := 4095 } = .fault (.outOfBounds .fetch) := rfl
/-- FE6, HX1. -/
theorem test_latched : step sFault = .refused (.faultLatched .fetch) := rfl
/-- FE7: the font is fetched as it stands. -/
theorem test_fetch_font :
    nextHas (fun t => t.report == some ⟨0xF090, 0x050⟩ && t.pc == 0x052) (step { s0 with pc := 0x050 }) = true := by
  decide
/-- The report of a cycle is gone in the next. -/
theorem test_report_cleared : cycle 0x6000 { s0 with report := some ⟨0xB300, 0x1FE⟩ } (fun t => t.report == none) = true := by
  decide

/-! ## Timer step (section 2.3) -/

/-- TM1. -/
theorem test_timer_sound_first : cycle 0x6000 { s0 with dt := 5, st := 3 } (fun t => t.st == 2 && t.dt == 5) = true := by
  decide
/-- TM2. -/
theorem test_timer_delay : cycle 0x6000 { s0 with dt := 5 } (fun t => t.st == 0 && t.dt == 4) = true := by decide
/-- TM3. -/
theorem test_timer_zero : cycle 0x6000 s0 (fun t => t.st == 0 && t.dt == 0) = true := by decide
/-- TM12: no timer step in a faulting cycle (the cycle has no next state). -/
theorem test_timer_fault : faults 0x00EE { s0 with dt := 5 } .stackUnderflow = true := by decide
/-- TM1 under the other policy. -/
theorem test_timer_independent :
    cycle 0x6000 { s0Tick with dt := 5, st := 3 } (fun t => t.st == 3 && t.dt == 5) = true := by decide
/-- TM13, TM14. -/
theorem test_timer_tick :
    (State.timerTick { s0Tick with dt := 5, st := 3 }).map (fun t => (t.dt, t.st)) = some (4, 2) ∧
    (State.timerTick { s0Tick with dt := 0, st := 1 }).map (fun t => (t.dt, t.st)) = some (0, 0) := by decide

/-! ## Control flow (section 2.4) -/

/-- CF1: parked. -/
theorem test_jp_parked : cycle 0x1202 { s0 with pc := 0x202 } (fun t => t.pc == 0x202) = true := by decide
/-- CF2. -/
theorem test_jp_top : cycle 0x1FFF s0 (fun t => t.pc == 0xFFF) = true := by decide
/-- CF5. -/
theorem test_call : cycle 0x2300 s0 (fun t => t.stack[0] == 0x202 && t.sp == 1 && t.pc == 0x300) = true := by decide
/-- CF6, CF7. -/
theorem test_call_full :
    cycle 0x2300 { s0 with sp := 15 } (fun t => t.stack[15] == 0x202 && t.sp == 16 && t.pc == 0x300) = true ∧
    faults 0x2300 { s0 with sp := 16 } .stackOverflow = true := by decide
/-- CF9. -/
theorem test_ret :
    cycle 0x00EE { s0 with sp := 1, stack := s0.stack.set 0 0x0ABC } (fun t => t.sp == 0 && t.pc == 0xABC) = true := by
  decide
/-- CF10. -/
theorem test_ret_empty : faults 0x00EE s0 .stackUnderflow = true := by decide
/-- CF12, CF13. -/
theorem test_se_imm :
    cycle 0x332A (regs [(3, 0x2A)] s0) (fun t => t.pc == 0x204) = true ∧
    cycle 0x332A (regs [(3, 0x2B)] s0) (fun t => t.pc == 0x202) = true := by decide
/-- CF14, CF15. -/
theorem test_sne_imm :
    cycle 0x432A (regs [(3, 0x2A)] s0) (fun t => t.pc == 0x202) = true ∧
    cycle 0x432A s0 (fun t => t.pc == 0x204) = true := by decide
/-- CF17, CF18. -/
theorem test_se_reg :
    cycle 0x5120 (regs [(1, 7), (2, 7)] s0) (fun t => t.pc == 0x204) = true ∧
    cycle 0x5120 (regs [(1, 7), (2, 8)] s0) (fun t => t.pc == 0x202) = true := by decide
/-- CF20, CF21. -/
theorem test_sne_reg :
    cycle 0x9120 (regs [(1, 7), (2, 8)] s0) (fun t => t.pc == 0x204) = true ∧
    cycle 0x9120 (regs [(1, 7), (2, 7)] s0) (fun t => t.pc == 0x202) = true := by decide
/-- CF23, CF24, CF29. -/
theorem test_skp :
    cycle 0xE49E (regs [(4, 0x0A)] (s0.writeKey 10 true)) (fun t => t.pc == 0x204) = true ∧
    cycle 0xE49E (regs [(4, 0x0A)] s0) (fun t => t.pc == 0x202) = true ∧
    cycle 0xE49E (regs [(4, 0x0F)] (s0.writeKey 15 true)) (fun t => t.pc == 0x204) = true := by decide
/-- CF25, CF26. -/
theorem test_sknp :
    cycle 0xE4A1 (regs [(4, 0x0A)] s0) (fun t => t.pc == 0x204) = true ∧
    cycle 0xE4A1 (regs [(4, 0x0A)] (s0.writeKey 10 true)) (fun t => t.pc == 0x202) = true := by decide
/-- CF27, CF28. -/
theorem test_key_index :
    faults 0xE49E (regs [(4, 0x10)] s0) .keyIndex = true ∧ faults 0xE4A1 (regs [(4, 0xFF)] s0) .keyIndex = true := by
  decide
/-- CF30: the highest pc a cycle can leave. -/
theorem test_skip_at_top : cycle 0x3000 { s0 with pc := 4094 } (fun t => t.pc == 4098) = true := by decide

/-! ## Arithmetic and logic (section 2.5, part 1) -/

/-- AL1, AL2. -/
theorem test_ld_imm :
    cycle 0x6A02 s0 (fun t => t.getV 0xA == 2) = true ∧ cycle 0x6FFF s0 (fun t => t.getV 0xF == 0xFF) = true := by decide
/-- S1, AL6. -/
theorem test_add_imm :
    cycle 0x7302 (regs [(3, 0xFF), (0xF, 1)] s0) (fun t => t.getV 3 == 1 && t.getV 0xF == 1) = true ∧
    cycle 0x7F03 (regs [(0xF, 0xFE)] s0) (fun t => t.getV 0xF == 1) = true := by decide
/-- AL7. -/
theorem test_ld_reg : cycle 0x8120 (regs [(2, 0x5C)] s0) (fun t => t.getV 1 == 0x5C && t.getV 2 == 0x5C) = true := by
  decide
/-- AL8. -/
theorem test_or : cycle 0x8121 (regs [(1, 0xF0), (2, 0x0F), (0xF, 1)] s0) (fun t => t.getV 1 == 0xFF && t.getV 0xF == 1) =
    true := by decide
/-- AL9. -/
theorem test_and : cycle 0x8122 (regs [(1, 0xF3), (2, 0x3C), (0xF, 1)] s0) (fun t => t.getV 1 == 0x30 && t.getV 0xF == 1) =
    true := by decide
/-- AL10. -/
theorem test_xor : cycle 0x8123 (regs [(1, 0xFF), (2, 0x0F), (0xF, 1)] s0) (fun t => t.getV 1 == 0xF0 && t.getV 0xF == 1) =
    true := by decide
/-- S2, S3, AL12. -/
theorem test_add_reg :
    cycle 0x8124 (regs [(1, 0xC8), (2, 0x64)] s0) (fun t => t.getV 1 == 0x2C && t.getV 0xF == 1) = true ∧
    cycle 0x8124 (regs [(1, 10), (2, 20), (0xF, 1)] s0) (fun t => t.getV 1 == 30 && t.getV 0xF == 0) = true ∧
    cycle 0x8124 (regs [(1, 0xFF)] s0) (fun t => t.getV 1 == 0xFF && t.getV 0xF == 0) = true := by decide
/-- AL16, AL18: VF as the destination and as a source. -/
theorem test_add_reg_vf :
    cycle 0x8F24 (regs [(0xF, 0xC8), (2, 0x64)] s0) (fun t => t.getV 0xF == 1) = true ∧
    cycle 0x81F4 (regs [(1, 0x10), (0xF, 1)] s0) (fun t => t.getV 1 == 0x11 && t.getV 0xF == 0) = true := by decide
/-- S4, S5, AL19. -/
theorem test_sub :
    cycle 0x8125 (regs [(1, 5), (2, 3)] s0) (fun t => t.getV 1 == 2 && t.getV 0xF == 1) = true ∧
    cycle 0x8125 (regs [(1, 3), (2, 5), (0xF, 1)] s0) (fun t => t.getV 1 == 254 && t.getV 0xF == 0) = true ∧
    cycle 0x8125 (regs [(1, 5), (2, 5)] s0) (fun t => t.getV 1 == 0 && t.getV 0xF == 1) = true := by decide
/-- AL22, AL23. -/
theorem test_sub_vf :
    cycle 0x8F25 (regs [(0xF, 5), (2, 3)] s0) (fun t => t.getV 0xF == 1) = true ∧
    cycle 0x8F25 (regs [(0xF, 3), (2, 5)] s0) (fun t => t.getV 0xF == 0) = true := by decide
/-- AL24, AL25, AL26. -/
theorem test_subn :
    cycle 0x8127 (regs [(1, 3), (2, 5)] s0) (fun t => t.getV 1 == 2 && t.getV 0xF == 1) = true ∧
    cycle 0x8127 (regs [(1, 5), (2, 3)] s0) (fun t => t.getV 1 == 0xFE && t.getV 0xF == 0) = true ∧
    cycle 0x8127 (regs [(1, 4), (2, 4)] s0) (fun t => t.getV 1 == 0 && t.getV 0xF == 1) = true := by decide
/-- AL27, AL28: y is ignored. -/
theorem test_shr :
    cycle 0x8126 (regs [(1, 5), (2, 0xF0)] s0) (fun t => t.getV 1 == 2 && t.getV 0xF == 1 && t.getV 2 == 0xF0) = true ∧
    cycle 0x8106 (regs [(1, 4)] s0) (fun t => t.getV 1 == 2 && t.getV 0xF == 0) = true := by decide
/-- AL31, AL32. -/
theorem test_shr_vf :
    cycle 0x8F06 (regs [(0xF, 3)] s0) (fun t => t.getV 0xF == 1) = true ∧
    cycle 0x8F06 (regs [(0xF, 2)] s0) (fun t => t.getV 0xF == 0) = true := by decide
/-- AL33, AL34. -/
theorem test_shl :
    cycle 0x812E (regs [(1, 0x81), (2, 0x0F)] s0) (fun t => t.getV 1 == 2 && t.getV 0xF == 1 && t.getV 2 == 0x0F) = true ∧
    cycle 0x810E (regs [(1, 0x40)] s0) (fun t => t.getV 1 == 0x80 && t.getV 0xF == 0) = true := by decide
/-- AL37, AL38. -/
theorem test_shl_vf :
    cycle 0x8F0E (regs [(0xF, 0x81)] s0) (fun t => t.getV 0xF == 1) = true ∧
    cycle 0x8F0E (regs [(0xF, 0x41)] s0) (fun t => t.getV 0xF == 0) = true := by decide

/-! ## Index register (section 2.6) -/

/-- IX1. -/
theorem test_ld_i : cycle 0xA2F0 { s0 with index := 0xFFFF } (fun t => t.index == 0x02F0) = true := by decide
/-- IX4, IX5. -/
theorem test_add_i :
    cycle 0xF21E (regs [(2, 1)] { s0 with index := 0x0FFF }) (fun t => t.index == 0x1000 && t.getV 0xF == 0) = true ∧
    cycle 0xF21E (regs [(2, 2)] { s0 with index := 0xFFFF }) (fun t => t.index == 1) = true := by decide
/-- IX9, IX10. -/
theorem test_ld_f :
    cycle 0xF329 (regs [(3, 0x0F)] s0) (fun t => t.index == 0x09B) = true ∧
    cycle 0xF329 (regs [(3, 0x1A)] s0) (fun t => t.index == 0x082) = true := by decide
/-- IX12, IX16: 4093 is the last legal I. -/
theorem test_ld_b :
    cycle 0xF333 (regs [(3, 255)] { s0 with index := 0x300 })
      (fun t => t.byteAt 0x300 == 2 && t.byteAt 0x301 == 5 && t.byteAt 0x302 == 5 && t.index == 0x300) = true ∧
    cycle 0xF333 (regs [(3, 123)] { s0 with index := 4093 })
      (fun t => t.byteAt 4093 == 1 && t.byteAt 4094 == 2 && t.byteAt 4095 == 3) = true := by decide
/-- IX17. -/
theorem test_ld_b_beyond : faults 0xF333 (regs [(3, 123)] { s0 with index := 4094 }) .memWrite = true := by decide

/-! ## Block transfer (section 2.7) -/

/-- BT1. -/
theorem test_st_regs :
    cycle 0xF255 (regs [(0, 0x11), (1, 0x22), (2, 0x33), (3, 0x44)] { s0 with index := 0x300 })
      (fun t => t.byteAt 0x300 == 0x11 && t.byteAt 0x301 == 0x22 && t.byteAt 0x302 == 0x33 && t.byteAt 0x303 == 0 &&
        t.index == 0x300) = true := by decide
/-- BT4, BT6. -/
theorem test_st_regs_edge :
    cycle 0xF055 (regs [(0, 9)] { s0 with index := 4095 }) (fun t => t.byteAt 4095 == 9) = true ∧
    faults 0xFF55 { s0 with index := 4081 } .memWrite = true := by decide
/-- BT8. -/
theorem test_ld_regs :
    cycle 0xF265 (regs [(3, 0x77)] (bytes 0x300 [0x11, 0x22, 0x33] { s0 with index := 0x300 }))
      (fun t => t.getV 0 == 0x11 && t.getV 1 == 0x22 && t.getV 2 == 0x33 && t.getV 3 == 0x77 && t.index == 0x300) =
      true := by decide
/-- BT9, BT11. -/
theorem test_ld_regs_edge :
    cycle 0xF465 { s0 with index := 0x050 } (fun t => t.getV 0 == 0xF0 && t.getV 1 == 0x90 && t.getV 4 == 0xF0) = true ∧
    faults 0xF165 { s0 with index := 4095 } .memRead = true := by decide

/-! ## Random (section 2.8) -/

/-- RN1, for every byte drawn. -/
theorem test_rnd : ∃ t, step (placed 0xC30F s0) = .next t ∧ t.getV 3 = Config.randomByte 0 &&& 0x0F :=
  ⟨_, rfl, rfl⟩
/-- RN2: a mask of 0, but the byte is drawn. -/
theorem test_rnd_mask0 :
    ∃ t, step (placed 0xC300 (regs [(3, 0x55)] s0)) = .next t ∧ t.draws = 1 ∧ t.getV 3 = Config.randomByte 0 &&& 0 :=
  ⟨_, rfl, rfl, rfl⟩

/-! ## Graphics (section 2.9) -/

/-- R165, GR1: on a display of ones. -/
theorem test_cls :
    cycle 0x00E0 { s0 with disp := Vector.replicate 2048 true }
      (fun t => !t.displayPort 7 5 && !t.displayPort 7 7 && t.redraw) = true := by decide
/-- S7, GR3, GR4: columns and rows wrap; bit 0 is the rightmost cell. -/
theorem test_drw_cells :
    cycle 0xD011 (regs [(0, 63)] (bytes 0x300 [0xFF] { s0 with index := 0x300 }))
      (fun t => t.displayPort 63 0 && t.displayPort 0 0 && t.displayPort 6 0 && !t.displayPort 7 0 && t.getV 0xF == 0 &&
        t.redraw) = true ∧
    cycle 0xD011 (bytes 0x300 [0x01] { s0 with index := 0x300 }) (fun t => t.displayPort 7 0 && !t.displayPort 0 0) =
      true ∧
    cycle 0xD012 (regs [(0, 63), (1, 31)] (bytes 0x300 [0xC0, 0xC0] { s0 with index := 0x300 }))
      (fun t => t.displayPort 63 31 && t.displayPort 0 31 && t.displayPort 63 0 && t.displayPort 0 0) = true := by
  decide +kernel
/-- R166 on a display of ones: the cells under the sprite go to 0 and VF to 1, the others stay. -/
theorem test_drw_collision :
    cycle 0xD011 (bytes 0x300 [0xF0] { s0 with index := 0x300, disp := Vector.replicate 2048 true })
      (fun t => !t.displayPort 0 0 && !t.displayPort 3 0 && t.displayPort 4 0 && t.displayPort 0 1 && t.getV 0xF == 1) =
      true := by decide

/-! ## Timer and key instructions (sections 2.3, 2.10) -/

/-- TM9: the old DT is read. -/
theorem test_ld_vx_dt :
    cycle 0xF307 { s0 with dt := 0x20 } (fun t => t.getV 3 == 0x20 && t.dt == 0x1F) = true ∧
    cycle 0xF307 { s0Tick with dt := 0x20 } (fun t => t.getV 3 == 0x20 && t.dt == 0x20) = true := by decide
/-- TM5, TM6. -/
theorem test_ld_dt_vx :
    cycle 0xF315 (regs [(3, 0x3C)] s0) (fun t => t.dt == 0x3B) = true ∧
    cycle 0xF315 (regs [(3, 0x3C)] { s0 with st := 2 }) (fun t => t.dt == 0x3C && t.st == 1) = true := by decide
/-- TM7. -/
theorem test_ld_st_vx :
    cycle 0xF318 (regs [(3, 1)] s0) (fun t => t.st == 0) = true ∧
    cycle 0xF318 (regs [(3, 1)] s0Tick) (fun t => t.st == 1) = true := by decide
/-- KY1, TM11: the stall keeps the timers running. -/
theorem test_ld_vx_k_stall :
    cycle 0xF50A (regs [(5, 0x77)] { s0 with dt := 5 }) (fun t => t.pc == 0x200 && t.getV 5 == 0x77 && t.dt == 4) =
      true := by decide
/-- KY2, KY4. -/
theorem test_ld_vx_k :
    cycle 0xF50A (regs [(5, 0x77)] ((s0.writeKey 9 true).writeKey 3 true)) (fun t => t.getV 5 == 3 && t.pc == 0x202) =
      true ∧
    cycle 0xF50A (s0.writeKey 15 true) (fun t => t.getV 5 == 0x0F && t.pc == 0x202) = true := by decide

/-! ## Undefined words (section 2.11) -/

/-- UD1, UD2. -/
theorem test_unimpl :
    cycle 0xB300 (regs [(0, 4)] s0) (fun t => t.pc == 0x202 && t.report == some ⟨0xB300, 0x200⟩) = true ∧
    cycle 0x0300 s0 (fun t => t.pc == 0x202 && t.sp == 0 && t.report == some ⟨0x0300, 0x200⟩) = true := by decide
/-- TM10: the timer step runs. -/
theorem test_unimpl_timer :
    cycle 0xB000 { s0 with dt := 5 } (fun t => t.dt == 4 && t.report == some ⟨0xB000, 0x200⟩) = true := by decide

/-! ## Host moves (section 2.12) -/

/-- HX3. -/
theorem test_load :
    (s0.load [0x12, 0x00]).loadErrorPort = .ok ∧ (s0.load [0x12, 0x00]).byteAt 0x200 = 0x12 ∧
    (s0.load [0x12, 0x00]).byteAt 0x201 = 0x00 ∧ (s0.load [0x12, 0x00]).pc = 0x200 := by decide
/-- HX5: a refused load shows on the port, and a later load clears it. -/
theorem test_load_refused :
    (s0.load (List.replicate 3585 0xFF)).loadErrorPort = .capacityExceeded ∧
    (s0.load (List.replicate 3585 0xFF)).mem = [] ∧
    ((s0.load (List.replicate 3585 0xFF)).load [0x12, 0x00]).loadErrorPort = .ok := by
  have h : s0.load (List.replicate 3585 0xFF) = { s0 with loadError := .capacityExceeded } :=
    if_pos (by rw [List.length_replicate]; decide)
  rw [h]; decide
/-- HX2: the program and the fault are gone. -/
theorem test_reset :
    (bytes 0x200 [0x12] { sFault with pc := 0x300 }).hostReset = s0 := rfl
/-- HX7. -/
theorem test_font :
    (List.range 5).map (fun k => s0.byteAt (0x050 + k)) = [0xF0, 0x90, 0x90, 0x90, 0xF0] ∧
    (List.range 5).map (fun k => s0.byteAt (0x09B + k)) = [0xF0, 0x80, 0xF0, 0x80, 0x80] ∧
    s0.byteAt 0x04F = 0 ∧ s0.byteAt 0x0A0 = 0 := by decide
/-- HX8. -/
theorem test_redraw_ack : (State.redrawAck { s0 with redraw := true }) = s0 := rfl
/-- Writing back what an unlisted address reads as takes the entry off the list. -/
theorem test_memory_canonical :
    (bytes 0x050 [0x12] s0).mem = [(0x050, 0x12)] ∧ (bytes 0x050 [0xF0] (bytes 0x050 [0x12] s0)).mem = [] := by decide
/-- `withFetchWord` ignores bits above the width and stores nothing where nothing can be fetched. -/
theorem test_with_fetch_word :
    (s0.withFetchWord 16 0x1F165).mem = [(0x200, 0xF1), (0x201, 0x65)] ∧
    (State.withFetchWord { s0 with pc := 4095 } 16 0xF165).mem = [] := by decide

/-! ## Witnesses: for each obligation with hypotheses, a state and operands that meet them, one for each clause at the
boundary of its range, with the clause's outcome where it is one field -/

theorem witness_decodeOfEncode :
    (Instr.drw 0xF 0xF 0xF).wellFormed = true ∧ (Instr.ldRegs 0xF).wellFormed = true ∧
    (Instr.unimpl 0xFFFF).wellFormed = true := by decide

theorem witness_decodeFollowsOpcodeTable :
    (opcodeRows.any fun r => rowSelects r 0xF165) = true ∧ (opcodeRows.all fun r => !rowSelects r 0xF166) = true := by
  decide

theorem witness_opcodeRowsDisjoint :
    opcodeRows[0]? = some ⟨"CLS", 0xFFFF, 0x00E0⟩ ∧ rowSelects ⟨"CLS", 0xFFFF, 0x00E0⟩ 0x00E0 = true := by decide

theorem witness_undefinedWords :
    (0x0DF#12 ≠ 0x0E0#12 ∧ 0x0DF#12 ≠ 0x0EE#12 ∧ decodeWord (formatA 0x0#4 0x0DF#12) = .unimpl 0x00DF) ∧
    (0x0EF#12 ≠ 0x0E0#12 ∧ 0x0EF#12 ≠ 0x0EE#12 ∧ decodeWord (formatA 0x0#4 0x0EF#12) = .unimpl 0x00EF) := by decide

theorem witness_byteReadsAndWrites :
    s0.memRead 4096 = .error .memRead ∧ s0.memRead 4095 = .ok 0 := ⟨rfl, rfl⟩

theorem witness_stepRunsDecodedInstruction :
    (placed 0x00E0 s0).canFetch ∧ decodeWord ((placed 0x00E0 s0).wordAt (placed 0x00E0 s0).pc.toNat) = .cls ∧
    (placed 0x2300 { s0 with sp := 16 }).canFetch ∧
    exec (.call 0x300) (placed 0x2300 { s0 with sp := 16 }).beginCycle = .fault (.outOfBounds .stackOverflow) :=
  ⟨by unfold State.canFetch; decide, by decide, by unfold State.canFetch; decide, rfl⟩

theorem witness_fetchBound :
    s0.fault = none ∧ 4094 < (State.pc { s0 with pc := 4095 }).toNat ∧ (State.pc { s0 with pc := 4094 }).toNat ≤ 4094 := by
  decide

theorem witness_latched : sFault.fault = some .fetch := rfl

theorem witness_sharedSlot :
    s0.config.timerPolicy = .sharedSlotPerCycle ∧ (State.st { s0 with st := 1, dt := 1 }) ≠ 0 ∧
    ((State.st { s0 with dt := 1 }) = 0 ∧ (State.dt { s0 with dt := 1 }) ≠ 0) ∧ (s0.st = 0 ∧ s0.dt = 0) := by decide

theorem witness_sharedSlotCounts :
    (sharedSlots 4 { s0 with st := 3, dt := 5 }).st = 0 ∧ (sharedSlots 4 { s0 with st := 3, dt := 5 }).dt = 4 ∧
    (sharedSlots 9 { s0 with st := 3, dt := 5 }).dt = 0 := by decide

theorem witness_independentTick :
    s0Tick.config.timerPolicy = .independentTick ∧ s0Tick.fault = none ∧
    (State.fault { s0Tick with fault := some .keyIndex }) ≠ none ∧ s0.config.timerPolicy = .sharedSlotPerCycle := by
  decide

theorem witness_handlerBeforeTimer :
    ((placed 0xF307 s0).canFetch ∧ (placed 0xF307 s0).nextInstr = .ldVxDt 3) ∧
    ((placed 0xF315 s0).canFetch ∧ (placed 0xF315 s0).nextInstr = .ldDtVx 3) ∧
    ((placed 0xF318 (regs [(3, 1)] s0)).canFetch ∧ (placed 0xF318 (regs [(3, 1)] s0)).nextInstr = .ldStVx 3 ∧
      (placed 0xF318 (regs [(3, 1)] s0)).getV 3 ≠ 0) := by unfold State.canFetch; decide

theorem witness_pcAfterEveryCycle :
    (∃ t, step (placed 0x1FFF s0) = .next t ∧ t.pc = 0xFFF) ∧
    (∃ t, step (placed 0x2300 s0) = .next t ∧ t.pc = 0x300) ∧
    (∃ t, step (placed 0x00EE { s0 with sp := 1 }) = .next t ∧ t.pc = 0) ∧
    (∃ t, step (placed 0xF00A s0) = .next t ∧ t.pc = 0x200) ∧
    (∃ t, step (placed 0xF00A (s0.writeKey 15 true)) = .next t ∧ t.pc = 0x202) ∧
    (∃ t, step (placed 0x3000 s0) = .next t ∧ t.pc = 0x204) ∧ (∃ t, step (placed 0x3001 s0) = .next t ∧ t.pc = 0x202) ∧
    (∃ t, step (placed 0x00E0 s0) = .next t ∧ t.pc = 0x202) :=
  ⟨⟨_, rfl, rfl⟩, ⟨_, rfl, rfl⟩, ⟨_, rfl, rfl⟩, ⟨_, rfl, rfl⟩, ⟨_, rfl, rfl⟩, ⟨_, rfl, rfl⟩, ⟨_, rfl, rfl⟩, ⟨_, rfl, rfl⟩⟩

theorem witness_faultsExactlyAsListed :
    oobCause (.ldB 3) { s0 with index := 4094 } = some .memWrite ∧ oobCause (.ldB 3) { s0 with index := 4093 } = none ∧
    oobCause (.drw 0 0 2) { s0 with index := 4095 } = some .memRead ∧
    oobCause (.drw 0 0 1) { s0 with index := 4095 } = none ∧ oobCause (.drw 0 0 0) { s0 with index := 4096 } = none ∧
    exec (.ldRegs 1) { s0 with index := 4095 } = .fault (.outOfBounds .memRead) :=
  ⟨rfl, rfl, rfl, rfl, rfl, rfl⟩

theorem witness_completesUnlessListed :
    oobCause (.stRegs 0xF) { s0 with index := 4080 } = none ∧ oobCause (.call 0) { s0 with sp := 15 } = none ∧
    oobCause .ret { s0 with sp := 1 } = none ∧ oobCause (.skp 4) (regs [(4, 15)] s0) = none := by decide

theorem witness_cycleOutcome :
    ((placed 0xF055 s0).canFetch ∧ oobCause (placed 0xF055 s0).nextInstr (placed 0xF055 s0) = none) ∧
    ((placed 0x00EE s0).canFetch ∧ oobCause (placed 0x00EE s0).nextInstr (placed 0x00EE s0) = some .stackUnderflow) := by
  unfold State.canFetch; decide

theorem witness_call : (State.sp { s0 with sp := 16 }).val = 16 ∧ (State.sp { s0 with sp := 15 }).val < 16 := by decide

theorem witness_return : s0.sp.val = 0 ∧ 0 < (State.sp { s0 with sp := 1 }).val := by decide

/-- Sixteen calls fit an empty stack, and the innermost returns first; seventeen do not. -/
theorem witness_callsNest :
    s0.sp.val + (List.replicate 16 0x300#12).length ≤ 16 ∧ 15 < (List.replicate 16 0x300#12).length ∧
    16 < s0.sp.val + (List.replicate 17 0x300#12).length ∧
    nextHas (fun t => t.pc == 0x402 && t.sp == 1)
      (runHandlers [.call 0x400, .call 0x500, .ret] s0) = true := by decide

theorem witness_skipsOnKey :
    15 < ((regs [(4, 16)] s0).getV 4).toNat ∧ ((regs [(4, 15)] s0).getV 4).toNat = (15 : Fin 16).val := by decide

theorem witness_addSubShift : (1#4 : Nibble) ≠ vF ∧ (0xE#4 : Nibble) ≠ vF := by decide

theorem witness_decimalDigits :
    4096 ≤ (State.index { s0 with index := 4094 }).toNat + 2 ∧ (State.index { s0 with index := 4093 }).toNat + 2 < 4096 := by
  decide

theorem witness_blockTransfer :
    4096 ≤ (State.index { s0 with index := 4081 }).toNat + (0xF#4 : Nibble).toNat ∧
    (State.index { s0 with index := 4080 }).toNat + (0xF#4 : Nibble).toNat < 4096 := by decide

/-- The second state's registers differ, its memory and I are those of the store. -/
theorem witness_storeThenLoad :
    ∃ t u, exec (.stRegs 1) (regs [(0, 7), (1, 9)] { s0 with index := 0x300 }) = .next t ∧
      u = regs [(0, 1), (1, 2)] t ∧ u.index = 0x300 ∧ (∀ a, u.byteAt a = t.byteAt a) ∧ u.getV 1 ≠ t.getV 1 :=
  ⟨_, _, rfl, rfl, rfl, fun _ => rfl, by decide⟩

theorem witness_randomMask : (0x0F#8 : Byte).getLsbD 4 = false := by decide

theorem witness_draw :
    ¬ spriteInMemory { s0 with index := 4095 } 2 ∧ spriteInMemory { s0 with index := 4095 } 1 ∧
    spriteInMemory { s0 with index := 4096 } 0 ∧
    spriteCovers (bytes 0x300 [0x80] { s0 with index := 0x300 }) 0 1 1 0 0 = true := by unfold spriteInMemory; decide

/-- The coordinates are the same after the first draw, and the display was blank under the sprite. -/
theorem witness_drawTwice :
    spriteInMemory (bytes 0x300 [0x80] { s0 with index := 0x300 }) 1 ∧
    ∃ t, exec (.drw 0 1 1) (bytes 0x300 [0x80] { s0 with index := 0x300 }) = .next t ∧
      t.getV 0 = (bytes 0x300 [0x80] { s0 with index := 0x300 }).getV 0 ∧
      t.getV 1 = (bytes 0x300 [0x80] { s0 with index := 0x300 }).getV 1 ∧
      (∀ (px : Fin 64) (py : Fin 32), spriteCovers (bytes 0x300 [0x80] { s0 with index := 0x300 }) 0 1 1 px py = true →
        s0.displayPort px py = false) :=
  ⟨.inr (by decide), _, rfl, rfl, rfl, fun px py _ => by simp [State.displayPort, State.reset, State.resetWith]⟩

theorem witness_keyWait :
    (((s0.writeKey 15 true).key[15] = true) ∧ ∀ j : Fin 16, j < 15 → (s0.writeKey 15 true).key[j] = false) ∧
    ∀ k : Fin 16, s0.key[k] = false := by decide

theorem witness_unimpl :
    isUndefinedWord 0xFFFF = true ∧
    ((placed 0xB300 s0).canFetch ∧ isUndefinedWord ((placed 0xB300 s0).wordAt (placed 0xB300 s0).pc.toNat) = true) ∧
    (isUndefinedWord ((placed 0x00E0 s0).wordAt (placed 0x00E0 s0).pc.toNat) = false ∧
      ∃ t, step (placed 0x00E0 s0) = .next t) :=
  ⟨by decide, by unfold State.canFetch; decide, by decide, _, rfl⟩

/-- A store of one byte: an unwritten register, an unwritten piece, and the address next to the byte stored. -/
theorem witness_frames :
    (∃ t, exec (.stRegs 0) (regs [(0, 9)] { s0 with index := 4095 }) = .next t) ∧ ¬ writesReg (.stRegs 0) 0 ∧
    Part.index ∉ writesPart (.stRegs 0) ∧ storesAt (.stRegs 0) { s0 with index := 4095 } 4095 ∧
    ¬ storesAt (.stRegs 0) { s0 with index := 4095 } 4094 :=
  ⟨⟨_, rfl⟩, id, by decide, ⟨0, by decide, by decide⟩, by
    rintro ⟨k, hk, h⟩
    obtain rfl : k = 0 := Nat.le_zero.mp hk
    exact absurd h (by decide)⟩

theorem witness_cycleKeeps : ∃ t, step (placed 0x00E0 { s0 with redraw := true }) = .next t ∧ t.redraw = true :=
  ⟨_, rfl, rfl⟩

theorem witness_outputs :
    (∃ t, step (placed 0xD010 s0) = .next t) ∧ step (placed 0x00EE s0) = .fault (.outOfBounds .stackUnderflow) ∧
    step sFault = .refused (.faultLatched .fetch) := ⟨⟨_, rfl⟩, rfl, rfl⟩

theorem witness_memoryCanonical :
    (placed 0xF055 (regs [(0, 9)] { s0 with index := 4095 })).memOk ∧
    ∃ t, step (placed 0xF055 (regs [(0, 9)] { s0 with index := 4095 })) = .next t ∧
      t.mem = [(0x200, 0xF0), (0x201, 0x55), (4095, 9)] := ⟨by decide, _, rfl, by decide⟩

/-- Two ways to the same memory. -/
theorem witness_canonicalMemoryIsUnique :
    (bytes 0x300 [1, 2] s0).memOk ∧ (bytes 0x301 [2] (bytes 0x300 [1] (bytes 0x050 [0xF0] s0))).memOk ∧
    (bytes 0x300 [1, 2] s0).mem = (bytes 0x301 [2] (bytes 0x300 [1] (bytes 0x050 [0xF0] s0))).mem := by decide

/-- The bound is met: a skip at 4094 leaves pc at 4098. -/
theorem witness_pcNeverWraps :
    (placed 0x3000 { s0 with pc := 4094 }).pcBounded ∧
    ∃ t, step (placed 0x3000 { s0 with pc := 4094 }) = .next t ∧ t.pc = 4098 :=
  ⟨by unfold State.pcBounded; decide, _, rfl, rfl⟩

/-- A completed cycle, a faulting cycle and a host move, each from a state that meets the invariant. -/
theorem witness_systemMoves :
    s0.systemOk ∧ (∃ t, SystemMove s0 t) ∧ (∃ t, SystemMove { s0 with pc := 4096 } t ∧ t.fault = some .fetch) ∧
    SystemMove s0 s0.hostReset ∧ (State.systemOk { s0 with pc := 4096 }) :=
  ⟨by unfold State.systemOk State.pcBounded; decide, ⟨_, .cycle rfl⟩,
    ⟨{ s0 with pc := 4096, fault := some .fetch }, .fault rfl ⟨rfl, rfl, rfl, rfl, rfl, by decide⟩, rfl⟩, .host .reset rfl,
    by unfold State.systemOk State.pcBounded; decide⟩

/-- A faulting cycle right after one that reported: the report is gone once the fault is there. -/
theorem witness_faultAndReport :
    (State.faultOrReport { s0 with pc := 4096, report := some ⟨0, 4094⟩ }) ∧
    step { s0 with pc := 4096, report := some ⟨0, 4094⟩ } = .fault (.outOfBounds .fetch) ∧
    (State.memOk { s0 with pc := 4096, report := some ⟨0, 4094⟩ }) ∧
    SystemMove { s0 with pc := 4096, report := some ⟨0, 4094⟩ } { s0 with pc := 4096, fault := some .fetch } :=
  ⟨by unfold State.faultOrReport; decide, rfl, by decide, .fault rfl ⟨rfl, rfl, rfl, rfl, rfl, by decide⟩⟩

/-- A load refused and a load accepted, and a cycle between them. -/
theorem witness_loadErrorPort :
    3584 < (List.replicate 3585 (0xFF#8 : Byte)).length ∧ ¬ 3584 < ([] : List Byte).length ∧
    SystemMove { s0 with loadError := .capacityExceeded } (s0.load []) ∧
    ∃ t, SystemMove { s0 with loadError := .capacityExceeded } t ∧ t.loadErrorPort = .capacityExceeded :=
  ⟨by rw [List.length_replicate]; decide, by decide, .host (.load []) rfl, _, .cycle rfl, rfl⟩

/-- A faulted machine, moved on by an acknowledge and by a reset. -/
theorem witness_latchCleared :
    sFault.fault = some .fetch ∧ SystemMove sFault sFault.redrawAck ∧ SystemMove sFault sFault.hostReset :=
  ⟨rfl, .host .redrawAck rfl, .host .reset rfl⟩

theorem witness_parked : (placed 0x1200 s0).parkedAt 0x200 ∧ (placed 0x1FFE { s0 with pc := 4094 }).parkedAt 0xFFE := by
  unfold State.parkedAt; decide

theorem witness_load :
    3584 < (List.replicate 3585 (0xFF#8 : Byte)).length ∧ (List.replicate 3584 (0xFF#8 : Byte)).length ≤ 3584 ∧
    (0x1FF < 0x200 ∨ 0x200 + 3584 ≤ 0x1FF) := by
  simp only [List.length_replicate]; decide

theorem witness_hostPorts : (15 : Nat) ≠ (0#4 : Nibble).toNat ∧ s0.soundActive = false := by decide

end Sys2Proof.Tests
end

section
/-! Single byte accesses (R41, R42): what each answers on either side of the memory bound, and the frame of an update of
memory alone. -/

namespace Sys2Proof.Machine

/-! ## Bounds of a byte access -/

theorem State.memRead_of_le {s : State} {a : Nat} (h : memSize ≤ a) : s.memRead a = .error .memRead :=
  if_pos h

theorem State.memRead_of_lt {s : State} {a : Nat} (h : a < memSize) : s.memRead a = .ok (s.byteAt a) :=
  if_neg (Nat.not_le.mpr h)

theorem State.memWrite_of_le {s : State} {a : Nat} {v : Byte} (h : memSize ≤ a) : s.memWrite a v = .error .memWrite :=
  if_pos h

theorem State.memWrite_of_lt {s : State} {a : Nat} {v : Byte} (h : a < memSize) :
    s.memWrite a v = .ok (s.putByte a v) :=
  if_neg (Nat.not_le.mpr h)

/-! ## Frames of a store -/

theorem State.byteAt_putByte_of_ne (s : State) {a b : Nat} (v : Byte) (h : b ≠ a) :
    (s.putByte a v).byteAt b = s.byteAt b := by
  rw [State.byteAt_putByte, if_neg h]

/-- The frame of every store, of one byte or of a block: `State.storeBytes_spec` and `State.putBytes_spec` give the
premise in this form. -/
theorem changesOnly_mem_of_eq {s t : State} (h : t = { s with mem := t.mem }) : ChangesOnly [] [.mem] s t := by
  rw [h]
  refine ⟨fun _ _ => rfl, fun p hp => ?_⟩
  cases p with
  | mem => exact absurd (List.mem_singleton_self _) hp
  | _ => rfl

/-- Settles O7: each access answers by its side of the bound, and a write below it is `putByte`, which changes the one
cell of memory. -/
theorem byteReadsAndWrites : Obligations.ByteReadsAndWrites := by
  intro s a v
  refine ⟨fun beyond => ⟨State.memRead_of_le beyond, State.memWrite_of_le beyond⟩, fun inside => ?_⟩
  have readsBack : (s.putByte a v).memRead a = .ok v := by
    rw [State.memRead_of_lt inside, State.byteAt_putByte_same]
  exact ⟨State.memRead_of_lt inside, s.putByte a v, State.memWrite_of_lt inside, readsBack,
    fun _ other => State.byteAt_putByte_of_ne s v other, changesOnly_mem_of_eq rfl⟩

end Sys2Proof.Machine
end

section
/-! The dispatcher cycle: the fetch on either side of its bound (R81, R82), and the timer unit under
`SharedSlotPerCycle` (R87). -/

namespace Sys2Proof.Machine

/-! ## Fetch (R81, R82) -/

/-- A word is big-endian in memory: the first of its two bytes weighs 256 (R46). -/
theorem wordOfBytes_toNat (hi lo : Byte) : (wordOfBytes hi lo).toNat = hi.toNat * 256 + lo.toNat := by
  have low : lo.toNat < 2 ^ 8 := lo.isLt
  rw [wordOfBytes, BitVec.toNat_append, ← Nat.shiftLeft_add_eq_or_of_lt low, Nat.shiftLeft_eq]

theorem State.fetchWord_of_lt {s : State} (beyond : 4094 < s.pc.toNat) : s.fetchWord = .error .fetch := by
  rw [State.fetchWord_eq, if_neg (Nat.not_le.mpr beyond)]

theorem State.fetchWord_of_le {s : State} (inRange : s.pc.toNat ≤ 4094) : s.fetchWord = .ok (s.wordAt s.pc.toNat) := by
  rw [State.fetchWord_eq, if_pos inRange, State.wordAt]

/-- A failed fetch ends the cycle with its cause (R81, R204). -/
theorem step_of_fetchWord_error {s : State} {c : OobCause} (unlatched : s.fault = none)
    (failed : s.fetchWord = .error c) : step s = .fault (.outOfBounds c) := by
  simp only [step, unlatched, failed, raiseOutOfBounds]

/-- Settles O9: beyond the bound the fetch fails, and the step with it; up to it the fetch answers the word at pc. -/
theorem fetchBoundAndByteOrder : Obligations.FetchBoundAndByteOrder := by
  intro s unlatched
  refine ⟨fun beyond => step_of_fetchWord_error unlatched (State.fetchWord_of_lt beyond), fun inRange => ?_⟩
  exact ⟨s.wordAt s.pc.toNat, State.fetchWord_of_le inRange, wordOfBytes_toNat _ _⟩

/-! ## The timer unit (R86, R87) -/

@[simp] theorem countDown_zero : countDown 0 = 0 := rfl

/-- Natural subtraction stops at 0 as the countdown does. -/
theorem countDown_toNat (t : Byte) : (countDown t).toNat = t.toNat - 1 := by
  by_cases zero : t = 0
  · rw [zero]; rfl
  · rw [countDown, if_neg zero]; bv_omega

theorem countDown_toNat_add_one {t : Byte} (running : t ≠ 0) : (countDown t).toNat + 1 = t.toNat := by
  have positive : 0 < t.toNat := by bv_omega
  rw [countDown_toNat, Nat.sub_add_cancel positive]

theorem State.timerUpdate_eq_sharedSlot {s : State} (shared : s.config.timerPolicy = .sharedSlotPerCycle) :
    s.timerUpdate = s.sharedSlot := by
  simp only [State.timerUpdate, shared]

/-- The frame of step 5 of a cycle, whatever the timer policy (R85). -/
theorem State.changesOnly_timerUpdate (s : State) : ChangesOnly [] [.dt, .st] s s.timerUpdate := by
  refine ⟨fun r _ => s.timerUpdate_getV r, fun p unlisted => ?_⟩
  cases p with
  | dt | st => simp at unlisted
  | _ => simp [Part.same]

/-- Settles O11: the sound timer always counts down, the delay timer only while the sound timer is 0. -/
theorem sharedSlotTimerUnit : Obligations.SharedSlotTimerUnit := by
  intro s shared
  have sound : s.timerUpdate.st = countDown s.st := by
    rw [State.timerUpdate_eq_sharedSlot shared, State.sharedSlot_st]
  have delay : s.timerUpdate.dt = if s.st = 0 then countDown s.dt else s.dt := by
    rw [State.timerUpdate_eq_sharedSlot shared, State.sharedSlot_dt]
  refine ⟨fun running => ?_, fun silent running => ?_, fun silent stopped => ?_, s.changesOnly_timerUpdate⟩
  · rw [sound, delay, if_neg running]
    exact ⟨countDown_toNat_add_one running, rfl⟩
  · rw [sound, delay, if_pos silent, silent]
    exact ⟨countDown_zero, countDown_toNat_add_one running⟩
  · rw [sound, delay, if_pos silent, silent, stopped]
    exact ⟨countDown_zero, countDown_zero⟩

end Sys2Proof.Machine
end

section
/-! Control flow without faults: the jump (R100) and the four skips on registers and immediates (R103 to R106). Each
comes down to how its word decodes and to one of two moves of pc, `State.jumpTo` and `State.skipIf`. -/

namespace Sys2Proof

/-! ## Decoding (R66) -/

theorem decodeWord_jp (nnn : Addr12) : decodeWord (formatA 0x1#4 nnn) = .jp nnn := by simp [decodeWord]

theorem decodeWord_seImm (x : Nibble) (kk : Byte) : decodeWord (formatI 0x3#4 x kk) = .seImm x kk := by
  simp [decodeWord]

theorem decodeWord_sneImm (x : Nibble) (kk : Byte) : decodeWord (formatI 0x4#4 x kk) = .sneImm x kk := by
  simp [decodeWord]

/-- Families 5 and 9 take every word whose low nibble is 0. -/
theorem decodeLowZero_formatR (op x y : Nibble) (i : Instr) : decodeLowZero (formatR op x y 0#4) i = i :=
  if_pos (fieldN_formatR op x y 0#4)

theorem decodeWord_seReg (x y : Nibble) : decodeWord (formatR 0x5#4 x y 0) = .seReg x y := by
  simp [decodeWord, decodeLowZero_formatR]

theorem decodeWord_sneReg (x y : Nibble) : decodeWord (formatR 0x9#4 x y 0) = .sneReg x y := by
  simp [decodeWord, decodeLowZero_formatR]

end Sys2Proof

namespace Sys2Proof.Machine

/-! ## Moves of pc -/

/-- The frame of every jump and skip, which update pc alone. -/
theorem changesOnly_pc_of_eq {s t : State} (h : t = { s with pc := t.pc }) : ChangesOnly [] [.pc] s t := by
  rw [h]
  refine ⟨fun _ _ => rfl, fun p hp => ?_⟩
  cases p with
  | pc => exact absurd (List.mem_singleton_self _) hp
  | mem => exact fun _ => rfl
  | _ => rfl

theorem State.changesOnly_jumpTo (s : State) (nnn : Addr12) : ChangesOnly [] [.pc] s (s.jumpTo nnn) :=
  changesOnly_pc_of_eq rfl

theorem State.changesOnly_skipIf (s : State) (taken : Bool) : ChangesOnly [] [.pc] s (s.skipIf taken) :=
  changesOnly_pc_of_eq (by cases taken <;> rfl)

/-- Zero extension keeps the target's number. -/
theorem State.jumpTo_pc_toNat (s : State) (nnn : Addr12) : (s.jumpTo nnn).pc.toNat = nnn.toNat := by
  rw [State.jumpTo_pc, BitVec.toNat_setWidth_of_le (by decide)]

theorem State.skipIf_beq_pc (s : State) (a b : Byte) : (s.skipIf (a == b)).pc = if a = b then s.pc + 2 else s.pc := by
  simp only [State.skipIf_pc, beq_iff_eq]

theorem State.skipIf_bne_pc (s : State) (a b : Byte) : (s.skipIf (a != b)).pc = if a = b then s.pc else s.pc + 2 := by
  simp only [State.skipIf_pc, bne_iff_ne, ite_not]

/-! ## Handlers -/

theorem exec_jp (nnn : Addr12) (s : State) : exec (.jp nnn) s = .next (s.jumpTo nnn) := rfl

theorem exec_seImm (x : Nibble) (kk : Byte) (s : State) :
    exec (.seImm x kk) s = .next (s.skipIf (s.getV x == kk)) := rfl

theorem exec_sneImm (x : Nibble) (kk : Byte) (s : State) :
    exec (.sneImm x kk) s = .next (s.skipIf (s.getV x != kk)) := rfl

theorem exec_seReg (x y : Nibble) (s : State) :
    exec (.seReg x y) s = .next (s.skipIf (s.getV x == s.getV y)) := rfl

theorem exec_sneReg (x y : Nibble) (s : State) :
    exec (.sneReg x y) s = .next (s.skipIf (s.getV x != s.getV y)) := rfl

/-- Settles O19: the handler is `jumpTo`, whose frame is pc alone. -/
theorem jumpSetsPc : Obligations.JumpSetsPc := by
  intro nnn s
  exact ⟨decodeWord_jp nnn, s.jumpTo nnn, exec_jp nnn s, s.jumpTo_pc_toNat nnn, s.changesOnly_jumpTo nnn⟩

/-- Settles O23: both handlers are `skipIf`, on the equality and on its negation. -/
theorem skipsOnImmediate : Obligations.SkipsOnImmediate := by
  intro x kk s
  refine ⟨decodeWord_seImm x kk, decodeWord_sneImm x kk, ?skipsIfEqual, ?skipsIfDifferent⟩
  case skipsIfEqual => exact ⟨_, exec_seImm x kk s, s.skipIf_beq_pc _ _, s.changesOnly_skipIf _⟩
  case skipsIfDifferent => exact ⟨_, exec_sneImm x kk s, s.skipIf_bne_pc _ _, s.changesOnly_skipIf _⟩

/-- Settles O24: as O23, with the second register in place of the immediate. -/
theorem skipsOnRegisters : Obligations.SkipsOnRegisters := by
  intro x y s
  refine ⟨decodeWord_seReg x y, decodeWord_sneReg x y, ?skipsIfEqual, ?skipsIfDifferent⟩
  case skipsIfEqual => exact ⟨_, exec_seReg x y s, s.skipIf_beq_pc _ _, s.changesOnly_skipIf _⟩
  case skipsIfDifferent => exact ⟨_, exec_sneReg x y s, s.skipIf_bne_pc _ _, s.changesOnly_skipIf _⟩

end Sys2Proof.Machine
end

section
/-! Arithmetic and logic: the loads and the immediate add (R120 to R122), the add with carry (R126) and the two
subtractions (R127, R129). A handler is either one register write, `State.setV`, or a result followed by its flag,
`State.setResultAndFlag`. -/

namespace Sys2Proof

/-! ## Decoding (R66) -/

theorem decodeWord_ldImm (x : Nibble) (kk : Byte) : decodeWord (formatI 0x6#4 x kk) = .ldImm x kk := by
  simp [decodeWord]

theorem decodeWord_addImm (x : Nibble) (kk : Byte) : decodeWord (formatI 0x7#4 x kk) = .addImm x kk := by
  simp [decodeWord]

/-- Every word whose leading nibble is 8 is left to its family. -/
theorem decodeWord_family8 (x y n : Nibble) :
    decodeWord (formatR 0x8#4 x y n) = decodeFamily8 (formatR 0x8#4 x y n) := by
  simp [decodeWord]

theorem decodeWord_ldReg (x y : Nibble) : decodeWord (formatR 0x8#4 x y 0) = .ldReg x y := by
  simp [decodeWord_family8, decodeFamily8]

theorem decodeWord_addReg (x y : Nibble) : decodeWord (formatR 0x8#4 x y 4) = .addReg x y := by
  simp [decodeWord_family8, decodeFamily8]

theorem decodeWord_sub (x y : Nibble) : decodeWord (formatR 0x8#4 x y 5) = .sub x y := by
  simp [decodeWord_family8, decodeFamily8]

theorem decodeWord_subn (x y : Nibble) : decodeWord (formatR 0x8#4 x y 7) = .subn x y := by
  simp [decodeWord_family8, decodeFamily8]

end Sys2Proof

namespace Sys2Proof.Machine

/-! ## Frames -/

theorem Part.same_trans {p : Part} {s t u : State} (first : p.same s t) (second : p.same t u) : p.same s u := by
  cases p with
  | mem => exact fun a => (second a).trans (first a)
  | _ => exact Eq.trans second first

/-- Two changes in a row change what either of them may. -/
theorem ChangesOnly.trans {rs rs' : List Nibble} {ps ps' : List Part} {s t u : State}
    (first : ChangesOnly rs ps s t) (second : ChangesOnly rs' ps' t u) :
    ChangesOnly (rs ++ rs') (ps ++ ps') s u := by
  obtain ⟨regs, parts⟩ := first
  obtain ⟨regs', parts'⟩ := second
  refine ⟨fun r unlisted => ?_, fun p unlisted => ?_⟩
  · rw [List.mem_append, not_or] at unlisted
    exact (regs' r unlisted.2).trans (regs r unlisted.1)
  · rw [List.mem_append, not_or] at unlisted
    exact Part.same_trans (parts p unlisted.1) (parts' p unlisted.2)

theorem State.changesOnly_setV (s : State) (x : Nibble) (b : Byte) : ChangesOnly [x] [] s (s.setV x b) := by
  refine ⟨fun r other => s.getV_setV_ne b (List.ne_of_not_mem_cons other), fun p _ => ?_⟩
  cases p with
  | mem => exact fun _ => rfl
  | _ => rfl

theorem State.changesOnly_setResultAndFlag (s : State) (x : Nibble) (b : Byte) (f : Bool) :
    ChangesOnly [x, vF] [] s (s.setResultAndFlag x b f) :=
  (s.changesOnly_setV x b).trans ((s.setV x b).changesOnly_setV vF (flagByte f))

/-! ## Result and flag (R11, R132) -/

theorem State.getV_vF_setResultAndFlag (s : State) (x : Nibble) (b : Byte) (f : Bool) :
    (s.setResultAndFlag x b f).getV vF = flagByte f := by
  rw [State.getV_setResultAndFlag, if_pos rfl]

theorem State.getV_setResultAndFlag_of_ne (s : State) {x : Nibble} (b : Byte) (f : Bool) (other : x ≠ vF) :
    (s.setResultAndFlag x b f).getV x = b := by
  rw [State.getV_setResultAndFlag, if_neg other, if_pos rfl]

theorem flagByte_carryOut (a b : Byte) : flagByte (carryOut a b) = if 255 < a.toNat + b.toNat then 1 else 0 := by
  simp only [flagByte, carryOut, decide_eq_true_eq]

theorem flagByte_notBorrow (a b : Byte) : flagByte (notBorrow a b) = if b.toNat ≤ a.toNat then 1 else 0 := by
  simp only [flagByte, notBorrow, decide_eq_true_eq]

/-- The difference modulo 256 as R127 and R129 write it, with 256 added so that it stays a natural number. -/
theorem byte_sub_toNat (a b : Byte) : (a - b).toNat = (a.toNat + 256 - b.toNat) % 256 := by
  bv_omega

/-- What either subtraction leaves, `a` the minuend and `b` the subtrahend (R127, R129). -/
theorem State.setResultAndFlag_sub_spec (s : State) (x : Nibble) (a b : Byte) :
    (x ≠ vF → ((s.setResultAndFlag x (a - b) (notBorrow a b)).getV x).toNat = (a.toNat + 256 - b.toNat) % 256) ∧
      (s.setResultAndFlag x (a - b) (notBorrow a b)).getV vF = (if b.toNat ≤ a.toNat then 1 else 0) ∧
      ChangesOnly [x, vF] [] s (s.setResultAndFlag x (a - b) (notBorrow a b)) := by
  refine ⟨fun other => ?_, ?_, s.changesOnly_setResultAndFlag x _ _⟩
  · rw [s.getV_setResultAndFlag_of_ne _ _ other, byte_sub_toNat]
  · rw [State.getV_vF_setResultAndFlag, flagByte_notBorrow]

/-! ## Handlers -/

theorem exec_ldImm (x : Nibble) (kk : Byte) (s : State) : exec (.ldImm x kk) s = .next (s.setV x kk) := rfl

theorem exec_addImm (x : Nibble) (kk : Byte) (s : State) :
    exec (.addImm x kk) s = .next (s.setV x (s.getV x + kk)) := rfl

theorem exec_ldReg (x y : Nibble) (s : State) : exec (.ldReg x y) s = .next (s.setV x (s.getV y)) := rfl

theorem exec_addReg (x y : Nibble) (s : State) :
    exec (.addReg x y) s =
      .next (s.setResultAndFlag x (s.getV x + s.getV y) (carryOut (s.getV x) (s.getV y))) := rfl

theorem exec_sub (x y : Nibble) (s : State) :
    exec (.sub x y) s =
      .next (s.setResultAndFlag x (s.getV x - s.getV y) (notBorrow (s.getV x) (s.getV y))) := rfl

theorem exec_subn (x y : Nibble) (s : State) :
    exec (.subn x y) s =
      .next (s.setResultAndFlag x (s.getV y - s.getV x) (notBorrow (s.getV y) (s.getV x))) := rfl

/-- Settles O26: each handler is one `setV`, whose frame is the destination alone. -/
theorem loadsAndAddImmediate : Obligations.LoadsAndAddImmediate := by
  intro x y kk s
  refine ⟨decodeWord_ldImm x kk, decodeWord_addImm x kk, decodeWord_ldReg x y, ?immediate, ?sum, ?register⟩
  case immediate => exact ⟨_, exec_ldImm x kk s, s.getV_setV_same x kk, s.changesOnly_setV x kk⟩
  case sum =>
    have wraps : ((s.setV x (s.getV x + kk)).getV x).toNat = ((s.getV x).toNat + kk.toNat) % 256 := by
      rw [State.getV_setV_same, BitVec.toNat_add]
    exact ⟨_, exec_addImm x kk s, wraps, s.changesOnly_setV x _⟩
  case register => exact ⟨_, exec_ldReg x y s, s.getV_setV_same x _, s.changesOnly_setV x _⟩

/-- Settles O28: the flag is written after the sum, so VF is the carry even when it is the destination. -/
theorem addSetsCarry : Obligations.AddSetsCarry := by
  intro x y s
  refine ⟨decodeWord_addReg x y, _, exec_addReg x y s, fun other => ?sum, ?carry, s.changesOnly_setResultAndFlag x _ _⟩
  case sum => rw [s.getV_setResultAndFlag_of_ne _ _ other, BitVec.toNat_add]
  case carry => rw [State.getV_vF_setResultAndFlag, flagByte_carryOut]

/-- Settles O29: `SUB` and `SUBN` are one subtraction, with the operands in either order. -/
theorem subtractsSetNotBorrow : Obligations.SubtractsSetNotBorrow := by
  intro x y s
  refine ⟨decodeWord_sub x y, decodeWord_subn x y, ?sub, ?subn⟩
  case sub => exact ⟨_, exec_sub x y s, s.setResultAndFlag_sub_spec x (s.getV x) (s.getV y)⟩
  case subn => exact ⟨_, exec_subn x y s, s.setResultAndFlag_sub_spec x (s.getV y) (s.getV x)⟩

end Sys2Proof.Machine
end

section
/-! Index register: the two loads (R140, R142). Each handler writes I alone, with a value that fits its 16 bits. -/

namespace Sys2Proof

/-! ## Decoding (R66) -/

theorem decodeWord_ldI (nnn : Addr12) : decodeWord (formatA 0xA#4 nnn) = .ldI nnn := by simp [decodeWord]

/-- Every word whose leading nibble is F is left to its family. -/
theorem decodeWord_familyF (x : Nibble) (kk : Byte) :
    decodeWord (formatI 0xF#4 x kk) = decodeFamilyF (formatI 0xF#4 x kk) := by
  simp [decodeWord]

theorem decodeWord_ldF (x : Nibble) : decodeWord (formatI 0xF#4 x 0x29) = .ldF x := by
  simp [decodeWord_familyF, decodeFamilyF]

end Sys2Proof

namespace Sys2Proof.Machine

/-! ## The value and the frame of an update of I -/

/-- The frame of every instruction that writes I, and I alone. -/
theorem changesOnly_index_of_eq {s t : State} (h : t = { s with index := t.index }) : ChangesOnly [] [.index] s t := by
  rw [h]
  refine ⟨fun _ _ => rfl, fun p unlisted => ?_⟩
  cases p with
  | index => exact absurd (List.mem_singleton_self _) unlisted
  | mem => exact fun _ => rfl
  | _ => rfl

/-- No glyph address wraps: the last one is 0x050 + 5 * 15 = 0x09B (R142). -/
theorem glyphAddr_toNat (v : Byte) : (glyphAddr v).toNat = 0x050 + 5 * (v.toNat % 16) := by
  have fits : 0x050 + 5 * (v.toNat % 16) < 2 ^ 16 := by omega
  rw [glyphAddr, fontBase, BitVec.toNat_ofNat, Nat.mod_eq_of_lt fits]

/-! ## Handlers -/

theorem exec_ldI (nnn : Addr12) (s : State) : exec (.ldI nnn) s = .next { s with index := nnn.setWidth 16 } := rfl

theorem exec_ldF (x : Nibble) (s : State) : exec (.ldF x) s = .next { s with index := glyphAddr (s.getV x) } := rfl

/-- Settles O31: zero extension keeps the address's number, and a glyph's address fits I. -/
theorem indexLoads : Obligations.IndexLoads := by
  intro nnn x s
  refine ⟨decodeWord_ldI nnn, decodeWord_ldF x, ?address, ?glyph⟩
  case address =>
    have zeroExtended : (nnn.setWidth 16).toNat = nnn.toNat := BitVec.toNat_setWidth_of_le (by decide)
    exact ⟨_, exec_ldI nnn s, zeroExtended, changesOnly_index_of_eq rfl⟩
  case glyph => exact ⟨_, exec_ldF x s, glyphAddr_toNat (s.getV x), changesOnly_index_of_eq rfl⟩

end Sys2Proof.Machine
end

section
/-! Graphics: `CLS` (R165). Its handler writes the display and the redraw flag alone. -/

namespace Sys2Proof

/-- Family 0 compares the whole word, and `CLS` has no operand: one word, so evaluation decides it (R66). -/
theorem decodeWord_cls : decodeWord 0x00E0#16 = .cls := by decide

end Sys2Proof

namespace Sys2Proof.Machine

/-! ## The cells and the frame of an update of the display -/

theorem State.displayPort_of_disp_eq_replicate {t : State} {b : Bool} (uniform : t.disp = Vector.replicate 2048 b)
    (px : Fin 64) (py : Fin 32) : t.displayPort px py = b := by
  simp only [State.displayPort, uniform, Vector.getElem_replicate]

/-- The frame of every update of the display and its redraw flag. -/
theorem changesOnly_disp_redraw_of_eq {s t : State} (h : t = { s with disp := t.disp, redraw := t.redraw }) :
    ChangesOnly [] [.disp, .redraw] s t := by
  rw [h]
  refine ⟨fun _ _ => rfl, fun p unlisted => ?_⟩
  cases p with
  | disp | redraw => simp at unlisted
  | mem => exact fun _ => rfl
  | _ => rfl

/-! ## Handler -/

theorem exec_cls (s : State) :
    exec .cls s = .next { s with disp := Vector.replicate 2048 false, redraw := true } := rfl

/-- Settles O38: the handler leaves a display of 2048 zeros, and every cell is one of them. -/
theorem clearBlanksDisplay : Obligations.ClearBlanksDisplay := by
  intro s
  exact ⟨decodeWord_cls, _, exec_cls s, State.displayPort_of_disp_eq_replicate rfl, rfl,
    changesOnly_disp_redraw_of_eq rfl⟩

end Sys2Proof.Machine
end

section
/-! Timer and key input: the three timer moves (R180 to R182) and the key wait (R183). A handler writes one register, by
`State.setV`, or one timer, or moves pc back. -/

namespace Sys2Proof

/-! ## Decoding (R66) -/

theorem decodeWord_ldVxDt (x : Nibble) : decodeWord (formatI 0xF#4 x 0x07) = .ldVxDt x := by
  simp [decodeWord_familyF, decodeFamilyF]

theorem decodeWord_ldVxK (x : Nibble) : decodeWord (formatI 0xF#4 x 0x0A) = .ldVxK x := by
  simp [decodeWord_familyF, decodeFamilyF]

theorem decodeWord_ldDtVx (x : Nibble) : decodeWord (formatI 0xF#4 x 0x15) = .ldDtVx x := by
  simp [decodeWord_familyF, decodeFamilyF]

theorem decodeWord_ldStVx (x : Nibble) : decodeWord (formatI 0xF#4 x 0x18) = .ldStVx x := by
  simp [decodeWord_familyF, decodeFamilyF]

end Sys2Proof

namespace Sys2Proof.Machine

/-! ## The frame of a write to the timers -/

/-- A write to the timers alone keeps every frame that lists each timer it changes. -/
theorem changesOnly_timers_of_eq {parts : List Part} {s t : State} (h : t = { s with dt := t.dt, st := t.st })
    (dtKept : Part.dt ∉ parts → t.dt = s.dt) (stKept : Part.st ∉ parts → t.st = s.st) : ChangesOnly [] parts s t := by
  refine ⟨fun _ _ => by rw [h]; rfl, fun p unlisted => ?_⟩
  cases p with
  | dt => exact dtKept unlisted
  | st => exact stKept unlisted
  | mem => exact fun _ => by rw [h]; rfl
  | _ => rw [h]; rfl

/-! ## The lowest held key (R183) -/

theorem State.lowestHeld_of_lowest {s : State} {k : Fin 16} (held : s.key[k] = true)
    (lowest : ∀ j : Fin 16, j < k → s.key[j] = false) : s.lowestHeld = some k.val := by
  obtain ⟨-, allReleased⟩ | ⟨found, isFound, foundHeld, foundLowest⟩ := s.lowestHeld_spec
  · simp [allReleased k] at held
  · rw [isFound]
    rcases lt_trichotomy found k with below | same | above
    · simp [lowest found below] at foundHeld
    · rw [same]
    · simp [foundLowest k above] at held

theorem State.lowestHeld_of_noneHeld {s : State} (noneHeld : ∀ k : Fin 16, s.key[k] = false) :
    s.lowestHeld = none := by
  obtain ⟨isNone, -⟩ | ⟨found, -, foundHeld, -⟩ := s.lowestHeld_spec
  · exact isNone
  · simp [noneHeld found] at foundHeld

/-- The number of a key fits a register. -/
theorem byteOfKey_toNat (k : Fin 16) : (BitVec.ofNat 8 k.val).toNat = k.val := by
  rw [BitVec.toNat_ofNat, Nat.mod_eq_of_lt (by omega)]

/-! ## Handlers -/

theorem exec_ldVxDt (x : Nibble) (s : State) : exec (.ldVxDt x) s = .next (s.setV x s.dt) := rfl

theorem exec_ldDtVx (x : Nibble) (s : State) : exec (.ldDtVx x) s = .next { s with dt := s.getV x } := rfl

theorem exec_ldStVx (x : Nibble) (s : State) : exec (.ldStVx x) s = .next { s with st := s.getV x } := rfl

theorem exec_ldVxK_of_some (x : Nibble) {s : State} {k : Nat} (found : s.lowestHeld = some k) :
    exec (.ldVxK x) s = .next (s.setV x (BitVec.ofNat 8 k)) := by
  simp only [exec, execLdVxK, found]

theorem exec_ldVxK_of_none (x : Nibble) {s : State} (noneFound : s.lowestHeld = none) :
    exec (.ldVxK x) s = .next { s with pc := s.pc - 2 } := by
  simp only [exec, execLdVxK, noneFound]

/-- Settles O42: the key scan finds the key that is held with none lower, or none, and each answer is one write. -/
theorem keyWaitTakesLowestHeldKey : Obligations.KeyWaitTakesLowestHeldKey := by
  intro x s
  refine ⟨decodeWord_ldVxK x, fun k held lowest => ?taken, fun noneHeld => ?retried⟩
  case taken =>
    have stored : ((s.setV x (BitVec.ofNat 8 k.val)).getV x).toNat = k.val := by
      rw [State.getV_setV_same, byteOfKey_toNat]
    exact ⟨_, exec_ldVxK_of_some x (State.lowestHeld_of_lowest held lowest), stored, s.changesOnly_setV x _⟩
  case retried =>
    exact ⟨_, exec_ldVxK_of_none x (State.lowestHeld_of_noneHeld noneHeld), rfl, changesOnly_pc_of_eq rfl⟩

/-- Settles O41: each handler is one write of the byte read, to the register or to the timer. -/
theorem timerMoves : Obligations.TimerMoves := by
  intro x s
  refine ⟨decodeWord_ldVxDt x, decodeWord_ldDtVx x, decodeWord_ldStVx x, ?readDelay, ?setDelay, ?setSound⟩
  case readDelay => exact ⟨_, exec_ldVxDt x s, s.getV_setV_same x s.dt, s.changesOnly_setV x s.dt⟩
  case setDelay =>
    exact ⟨_, exec_ldDtVx x s, rfl,
      changesOnly_timers_of_eq rfl (fun unlisted => absurd (List.mem_singleton_self _) unlisted) fun _ => rfl⟩
  case setSound =>
    exact ⟨_, exec_ldStVx x s, rfl,
      changesOnly_timers_of_eq rfl (fun _ => rfl) fun unlisted => absurd (List.mem_singleton_self _) unlisted⟩

end Sys2Proof.Machine
end

section
/-! The decoder and the encoder (R62 to R67): they are inverse to each other, and the decoder selects the row of the
opcode table that fits. Every word's analysis is done once, in `decodeWord_represents`. -/

namespace Sys2Proof

/-! ## Decoding the word of an instruction (R66) -/

theorem decodeWord_ret : decodeWord 0x00EE#16 = .ret := by decide

theorem decodeWord_call (nnn : Addr12) : decodeWord (formatA 0x2#4 nnn) = .call nnn := by simp [decodeWord]

theorem decodeWord_rnd (x : Nibble) (kk : Byte) : decodeWord (formatI 0xC#4 x kk) = .rnd x kk := by simp [decodeWord]

theorem decodeWord_drw (x y n : Nibble) : decodeWord (formatR 0xD#4 x y n) = .drw x y n := by simp [decodeWord]

theorem decodeWord_or (x y : Nibble) : decodeWord (formatR 0x8#4 x y 1) = .or x y := by
  simp [decodeWord_family8, decodeFamily8]

theorem decodeWord_and (x y : Nibble) : decodeWord (formatR 0x8#4 x y 2) = .and x y := by
  simp [decodeWord_family8, decodeFamily8]

theorem decodeWord_xor (x y : Nibble) : decodeWord (formatR 0x8#4 x y 3) = .xor x y := by
  simp [decodeWord_family8, decodeFamily8]

theorem decodeWord_shr (x y : Nibble) : decodeWord (formatR 0x8#4 x y 6) = .shr x y := by
  simp [decodeWord_family8, decodeFamily8]

theorem decodeWord_shl (x y : Nibble) : decodeWord (formatR 0x8#4 x y 0xE) = .shl x y := by
  simp [decodeWord_family8, decodeFamily8]

/-- Every word whose leading nibble is E is left to its family. -/
theorem decodeWord_familyE (x : Nibble) (kk : Byte) :
    decodeWord (formatI 0xE#4 x kk) = decodeFamilyE (formatI 0xE#4 x kk) := by
  simp [decodeWord]

theorem decodeWord_skp (x : Nibble) : decodeWord (formatI 0xE#4 x 0x9E) = .skp x := by
  simp [decodeWord_familyE, decodeFamilyE]

theorem decodeWord_sknp (x : Nibble) : decodeWord (formatI 0xE#4 x 0xA1) = .sknp x := by
  simp [decodeWord_familyE, decodeFamilyE]

theorem decodeWord_addI (x : Nibble) : decodeWord (formatI 0xF#4 x 0x1E) = .addI x := by
  simp [decodeWord_familyF, decodeFamilyF]

theorem decodeWord_ldB (x : Nibble) : decodeWord (formatI 0xF#4 x 0x33) = .ldB x := by
  simp [decodeWord_familyF, decodeFamilyF]

theorem decodeWord_stRegs (x : Nibble) : decodeWord (formatI 0xF#4 x 0x55) = .stRegs x := by
  simp [decodeWord_familyF, decodeFamilyF]

theorem decodeWord_ldRegs (x : Nibble) : decodeWord (formatI 0xF#4 x 0x65) = .ldRegs x := by
  simp [decodeWord_familyF, decodeFamilyF]

/-! ## A word from the fields its decoding fixes -/

/-- A field is the numeral of its number. -/
theorem eq_ofNat_of_toNat_eq {n k : Nat} {b : BitVec n} (h : b.toNat = k) : b = BitVec.ofNat n k := by
  rw [← h, BitVec.ofNat_toNat, BitVec.setWidth_eq]

theorem formatA_of_fields {w : Word} {op : Nibble} (hop : fieldOp w = op) : formatA op (fieldNnn w) = w := by
  rw [← hop, formatA_fields]

theorem formatI_of_fields {w : Word} {op : Nibble} {kk : Byte} (hop : fieldOp w = op) (hkk : fieldKk w = kk) :
    formatI op (fieldX w) kk = w := by
  rw [← hop, ← hkk, formatI_fields]

theorem formatR_of_fields {w : Word} {op n : Nibble} (hop : fieldOp w = op) (hn : fieldN w = n) :
    formatR op (fieldX w) (fieldY w) n = w := by
  rw [← hop, ← hn, formatR_fields]

/-! ## What decoding a word must give (R64, R67) -/

/-- `i` is the reading of `w`: its word is `w`, it is well formed, and it is UNIMPL where R67 says so. -/
def Represents (i : Instr) (w : Word) : Prop :=
  encode i = w ∧ i.wellFormed = true ∧ (isUndefinedWord w = true → i = .unimpl w)

theorem represents_unimpl {w : Word} (undefined : isUndefinedWord w = true) : Represents (.unimpl w) w :=
  ⟨rfl, undefined, fun _ => rfl⟩

theorem represents_of_defined {i : Instr} {w : Word} (sameWord : encode i = w) (formed : i.wellFormed = true)
    (defined : isUndefinedWord w = false) : Represents i w :=
  ⟨sameWord, formed, fun undefined => absurd (defined.symm.trans undefined) Bool.false_ne_true⟩

/-- R67's table, read from the fields of the word. -/
theorem isUndefinedWord_eq (w : Word) :
    isUndefinedWord w =
      (((fieldOp w).toNat == 0x0 && w != 0x00E0#16 && w != 0x00EE#16) ||
        ((fieldOp w).toNat == 0x5 && (fieldN w).toNat != 0) ||
        ((fieldOp w).toNat == 0x8 && [0x8, 0x9, 0xA, 0xB, 0xC, 0xD, 0xF].contains (fieldN w).toNat) ||
        ((fieldOp w).toNat == 0x9 && (fieldN w).toNat != 0) ||
        ((fieldOp w).toNat == 0xB) ||
        ((fieldOp w).toNat == 0xE && (fieldKk w).toNat != 0x9E && (fieldKk w).toNat != 0xA1) ||
        ((fieldOp w).toNat == 0xF &&
          !([0x07, 0x0A, 0x15, 0x18, 0x1E, 0x29, 0x33, 0x55, 0x65].contains (fieldKk w).toNat))) := by
  rw [toNat_fieldOp, toNat_fieldN, toNat_fieldKk, isUndefinedWord]

/-! ## Family by family -/

theorem decodeFamily0_represents {w : Word} (hop : fieldOp w = 0x0#4) : Represents (decodeFamily0 w) w := by
  unfold decodeFamily0
  split_ifs with hcls hret
  · exact represents_of_defined hcls.symm rfl (by simp [hcls, isUndefinedWord])
  · exact represents_of_defined hret.symm rfl (by simp [hret, isUndefinedWord])
  · exact represents_unimpl (by simp [isUndefinedWord_eq, hop, hcls, hret])

/-- Families 5 and 9, whose instruction has the low nibble 0. -/
theorem decodeLowZero_represents {w : Word} {op : Nibble} {i : Instr} (hop : fieldOp w = op) (family : op = 5 ∨ op = 9)
    (word : encode i = formatR op (fieldX w) (fieldY w) 0) (formed : i.wellFormed = true) :
    Represents (decodeLowZero w i) w := by
  have undefined : isUndefinedWord w = ((fieldN w).toNat != 0) := by
    obtain rfl | rfl := family <;> simp [isUndefinedWord_eq, hop]
  unfold decodeLowZero
  split_ifs with hn
  · exact represents_of_defined (word.trans (formatR_of_fields hop hn)) formed (by simp [undefined, hn])
  · exact represents_unimpl (by simpa [undefined, ← BitVec.toNat_inj] using hn)

theorem decodeFamily8_represents {w : Word} (hop : fieldOp w = 0x8#4) : Represents (decodeFamily8 w) w := by
  have undefined : isUndefinedWord w = [0x8, 0x9, 0xA, 0xB, 0xC, 0xD, 0xF].contains (fieldN w).toNat := by
    simp [isUndefinedWord_eq, hop]
  unfold decodeFamily8
  split
  case h_10 =>
    have bound := (fieldN w).isLt
    simp only [imp_false] at *
    exact represents_unimpl (by simp [undefined]; omega)
  all_goals
    rename_i hn
    exact represents_of_defined (formatR_of_fields hop (eq_ofNat_of_toNat_eq hn)) rfl (by simp [undefined, hn])

theorem decodeFamilyE_represents {w : Word} (hop : fieldOp w = 0xE#4) : Represents (decodeFamilyE w) w := by
  have undefined : isUndefinedWord w = ((fieldKk w).toNat != 0x9E && (fieldKk w).toNat != 0xA1) := by
    simp [isUndefinedWord_eq, hop]
  unfold decodeFamilyE
  split
  case h_3 =>
    simp only [imp_false] at *
    exact represents_unimpl (by simp [undefined]; omega)
  all_goals
    rename_i hkk
    exact represents_of_defined (formatI_of_fields hop (eq_ofNat_of_toNat_eq hkk)) rfl (by simp [undefined, hkk])

theorem decodeFamilyF_represents {w : Word} (hop : fieldOp w = 0xF#4) : Represents (decodeFamilyF w) w := by
  have undefined : isUndefinedWord w =
      !([0x07, 0x0A, 0x15, 0x18, 0x1E, 0x29, 0x33, 0x55, 0x65].contains (fieldKk w).toNat) := by
    simp [isUndefinedWord_eq, hop]
  unfold decodeFamilyF
  split
  case h_10 =>
    simp only [imp_false] at *
    exact represents_unimpl (by simp [undefined]; omega)
  all_goals
    rename_i hkk
    exact represents_of_defined (formatI_of_fields hop (eq_ofNat_of_toNat_eq hkk)) rfl (by simp [undefined, hkk])

/-- A family with one instruction and no fallback, that is neither 0, 5, 8, 9, B, E nor F, has no undefined word. -/
theorem isUndefinedWord_of_whole_family {w : Word} {op : Nibble} (hop : fieldOp w = op)
    (whole : op ∈ [0x1#4, 0x2#4, 0x3#4, 0x4#4, 0x6#4, 0x7#4, 0xA#4, 0xC#4, 0xD#4]) : isUndefinedWord w = false := by
  rw [isUndefinedWord_eq, hop]
  fin_cases whole <;> simp

/-- The decoder's sixteen arms in their order: arm `h_1` is family 0, arm `h_16` is family F. -/
theorem decodeWord_represents (w : Word) : Represents (decodeWord w) w := by
  unfold decodeWord
  split <;> rename_i h
  case h_16 =>
    have bound := (fieldOp w).isLt
    simp only [imp_false] at *
    exact decodeFamilyF_represents (eq_ofNat_of_toNat_eq (by omega))
  all_goals
    have hop := eq_ofNat_of_toNat_eq h
  case h_1 => exact decodeFamily0_represents hop
  case h_6 => exact decodeLowZero_represents hop (.inl rfl) rfl rfl
  case h_9 => exact decodeFamily8_represents hop
  case h_10 => exact decodeLowZero_represents hop (.inr rfl) rfl rfl
  case h_12 => exact represents_unimpl (by simp [isUndefinedWord_eq, hop])
  case h_14 =>
    exact represents_of_defined (formatR_of_fields hop rfl) rfl (isUndefinedWord_of_whole_family hop (by decide))
  case h_15 => exact decodeFamilyE_represents hop
  case h_2 | h_3 | h_11 =>
    exact represents_of_defined (formatA_of_fields hop) rfl (isUndefinedWord_of_whole_family hop (by decide))
  case h_4 | h_5 | h_7 | h_8 | h_13 =>
    exact represents_of_defined (formatI_of_fields hop rfl) rfl (isUndefinedWord_of_whole_family hop (by decide))

theorem decodeWord_of_isUndefinedWord {w : Word} (undefined : isUndefinedWord w = true) : decodeWord w = .unimpl w :=
  have ⟨_, _, isUnimpl⟩ := decodeWord_represents w
  isUnimpl undefined

/-- Settles O1: the decoder on the format of each instruction; for UNIMPL, well-formedness says that its word is
undefined. -/
theorem decodeOfEncode : Obligations.DecodeOfEncode := by
  intro i formed
  cases i with
  | cls => exact decodeWord_cls
  | ret => exact decodeWord_ret
  | jp nnn => exact decodeWord_jp nnn
  | call nnn => exact decodeWord_call nnn
  | seImm x kk => exact decodeWord_seImm x kk
  | sneImm x kk => exact decodeWord_sneImm x kk
  | seReg x y => exact decodeWord_seReg x y
  | ldImm x kk => exact decodeWord_ldImm x kk
  | addImm x kk => exact decodeWord_addImm x kk
  | ldReg x y => exact decodeWord_ldReg x y
  | or x y => exact decodeWord_or x y
  | and x y => exact decodeWord_and x y
  | xor x y => exact decodeWord_xor x y
  | addReg x y => exact decodeWord_addReg x y
  | sub x y => exact decodeWord_sub x y
  | shr x y => exact decodeWord_shr x y
  | subn x y => exact decodeWord_subn x y
  | shl x y => exact decodeWord_shl x y
  | sneReg x y => exact decodeWord_sneReg x y
  | ldI nnn => exact decodeWord_ldI nnn
  | rnd x kk => exact decodeWord_rnd x kk
  | drw x y n => exact decodeWord_drw x y n
  | skp x => exact decodeWord_skp x
  | sknp x => exact decodeWord_sknp x
  | ldVxDt x => exact decodeWord_ldVxDt x
  | ldVxK x => exact decodeWord_ldVxK x
  | ldDtVx x => exact decodeWord_ldDtVx x
  | ldStVx x => exact decodeWord_ldStVx x
  | addI x => exact decodeWord_addI x
  | ldF x => exact decodeWord_ldF x
  | ldB x => exact decodeWord_ldB x
  | stRegs x => exact decodeWord_stRegs x
  | ldRegs x => exact decodeWord_ldRegs x
  | unimpl w => exact decodeWord_of_isUndefinedWord formed

/-- Settles O2: two of the three things that every word's decoding gives. -/
theorem encodeOfDecode : Obligations.EncodeOfDecode := by
  intro w
  obtain ⟨sameWord, formed, -⟩ := decodeWord_represents w
  exact ⟨formed, sameWord⟩

/-- The decoder reads UNIMPL from no defined word. -/
theorem decodeWord_eq_unimpl_iff (w : Word) : decodeWord w = .unimpl w ↔ isUndefinedWord w = true := by
  obtain ⟨-, formed, undefined⟩ := decodeWord_represents w
  refine ⟨fun isUnimpl => ?_, undefined⟩
  rwa [isUnimpl] at formed

/-- Settles O5: the equivalence is O1 and O2 on UNIMPL; the two families are read off the table of undefined words. -/
theorem undefinedWordsDecodeToUnimpl : Obligations.UndefinedWordsDecodeToUnimpl := by
  refine ⟨decodeWord_eq_unimpl_iff, fun nnn => ?familyB, fun nnn notCls notRet => ?family0⟩
  case familyB => exact decodeWord_of_isUndefinedWord (by simp [isUndefinedWord_eq])
  case family0 =>
    have other (m : Addr12) (different : nnn ≠ m) : formatA 0x0#4 nnn ≠ formatA 0x0#4 m := fun same => by
      rw [← fieldNnn_formatA 0x0#4 nnn, same, fieldNnn_formatA] at different
      exact different rfl
    have wordNotCls : formatA 0x0#4 nnn ≠ 0x00E0#16 := other 0x0E0#12 notCls
    have wordNotRet : formatA 0x0#4 nnn ≠ 0x00EE#16 := other 0x0EE#12 notRet
    exact decodeWord_of_isUndefinedWord (by simp [isUndefinedWord_eq, wordNotCls, wordNotRet])

/-! ## The opcode table (R66) -/

/-- Settles O4: a word that two rows select shows each row's pattern under the other's mask, and the table has no two
rows whose patterns agree under both masks. -/
theorem opcodeRowsDisjoint : Obligations.OpcodeRowsDisjoint := by
  have apart : ∀ r ∈ opcodeRows, ∀ q ∈ opcodeRows, r.pattern &&& q.mask = q.pattern &&& r.mask → r = q := by decide
  intro w r q hr hq rSelects qSelects
  have rFits : w &&& r.mask = r.pattern := beq_iff_eq.mp rSelects
  have qFits : w &&& q.mask = q.pattern := beq_iff_eq.mp qSelects
  refine apart r hr q hq ?_
  rw [← rFits, ← qFits, BitVec.and_assoc, BitVec.and_assoc, BitVec.and_comm r.mask]

/-- A field that the mask keeps whole is the pattern's. -/
theorem fieldOp_of_masked {w mask pattern : Word} (fits : w &&& mask = pattern) (kept : fieldOp mask = 0xF#4) :
    fieldOp w = fieldOp pattern := by
  have hand : fieldOp (w &&& mask) = fieldOp w &&& fieldOp mask := BitVec.extractLsb'_and
  rw [← fits, hand, kept, show 0xF#4 = BitVec.allOnes 4 from rfl, BitVec.and_allOnes]

theorem fieldN_of_masked {w mask pattern : Word} (fits : w &&& mask = pattern) (kept : fieldN mask = 0xF#4) :
    fieldN w = fieldN pattern := by
  have hand : fieldN (w &&& mask) = fieldN w &&& fieldN mask := BitVec.extractLsb'_and
  rw [← fits, hand, kept, show 0xF#4 = BitVec.allOnes 4 from rfl, BitVec.and_allOnes]

theorem fieldKk_of_masked {w mask pattern : Word} (fits : w &&& mask = pattern) (kept : fieldKk mask = 0xFF#8) :
    fieldKk w = fieldKk pattern := by
  have hand : fieldKk (w &&& mask) = fieldKk w &&& fieldKk mask := BitVec.extractLsb'_and
  rw [← fits, hand, kept, show 0xFF#8 = BitVec.allOnes 8 from rfl, BitVec.and_allOnes]

/-- Which instruction a word holds is decided by its family, and in the families that sub-decode by the whole word, the
low nibble or the low byte. The arms are named as in `decodeWord_represents`. -/
theorem mnemonic_decodeWord_congr {w v : Word} (family : fieldOp w = fieldOp v) (family0 : fieldOp v = 0x0#4 → w = v)
    (lowNibble : fieldOp v ∈ [0x5#4, 0x8#4, 0x9#4] → fieldN w = fieldN v)
    (lowByte : fieldOp v ∈ [0xE#4, 0xF#4] → fieldKk w = fieldKk v) :
    (decodeWord w).mnemonic = (decodeWord v).mnemonic := by
  unfold decodeWord
  rw [family]
  split <;> rename_i hop
  case h_1 => rw [family0 (eq_ofNat_of_toNat_eq hop)]
  case h_6 | h_10 =>
    have same : fieldN w = fieldN v := lowNibble (by simp [eq_ofNat_of_toNat_eq hop])
    unfold decodeLowZero
    rw [same]
    split_ifs <;> rfl
  case h_9 =>
    have same : fieldN w = fieldN v := lowNibble (by simp [eq_ofNat_of_toNat_eq hop])
    unfold decodeFamily8
    rw [same]
    split <;> rfl
  case h_15 =>
    have same : fieldKk w = fieldKk v := lowByte (by simp [eq_ofNat_of_toNat_eq hop])
    unfold decodeFamilyE
    rw [same]
    split <;> rfl
  case h_16 =>
    have bound := (fieldOp v).isLt
    simp only [imp_false] at *
    have familyF : fieldOp v = 0xF#4 := eq_ofNat_of_toNat_eq (by omega)
    have same : fieldKk w = fieldKk v := lowByte (by simp [familyF])
    unfold decodeFamilyF
    rw [same]
    split <;> rfl
  all_goals rfl

/-- What R66's table gives a decoder to rely on: each mask keeps what the family of its pattern compares, and each
pattern is a word of the row's own instruction. -/
theorem opcodeRows_masks : ∀ r ∈ opcodeRows,
    fieldOp r.mask = 0xF#4 ∧ (fieldOp r.pattern = 0x0#4 → r.mask = BitVec.allOnes 16) ∧
      (fieldOp r.pattern ∈ [0x5#4, 0x8#4, 0x9#4] → fieldN r.mask = 0xF#4) ∧
      (fieldOp r.pattern ∈ [0xE#4, 0xF#4] → fieldKk r.mask = 0xFF#8) ∧
      (decodeWord r.pattern).mnemonic = r.mnemonic := by decide

theorem mnemonic_decodeWord_of_selects {r : OpcodeRow} {w : Word} (listed : r ∈ opcodeRows)
    (selects : rowSelects r w = true) : (decodeWord w).mnemonic = r.mnemonic := by
  have fits : w &&& r.mask = r.pattern := beq_iff_eq.mp selects
  obtain ⟨keepsOp, keepsWord, keepsN, keepsKk, own⟩ := opcodeRows_masks r listed
  rw [← own]
  refine mnemonic_decodeWord_congr (fieldOp_of_masked fits keepsOp) (fun h => ?_)
    (fun h => fieldN_of_masked fits (keepsN h)) (fun h => fieldKk_of_masked fits (keepsKk h))
  rw [← fits, keepsWord h, BitVec.and_allOnes]

theorem rowMatch (i : Instr) : Laws.RowMatch.Statement i := by
  cases i with
  | cls => exact Laws.RowMatch.cls
  | ret => exact Laws.RowMatch.ret
  | jp nnn => exact Laws.RowMatch.jp nnn
  | call nnn => exact Laws.RowMatch.call nnn
  | seImm x kk => exact Laws.RowMatch.seImm x kk
  | sneImm x kk => exact Laws.RowMatch.sneImm x kk
  | seReg x y => exact Laws.RowMatch.seReg x y
  | ldImm x kk => exact Laws.RowMatch.ldImm x kk
  | addImm x kk => exact Laws.RowMatch.addImm x kk
  | ldReg x y => exact Laws.RowMatch.ldReg x y
  | or x y => exact Laws.RowMatch.or x y
  | and x y => exact Laws.RowMatch.and x y
  | xor x y => exact Laws.RowMatch.xor x y
  | addReg x y => exact Laws.RowMatch.addReg x y
  | sub x y => exact Laws.RowMatch.sub x y
  | shr x y => exact Laws.RowMatch.shr x y
  | subn x y => exact Laws.RowMatch.subn x y
  | shl x y => exact Laws.RowMatch.shl x y
  | sneReg x y => exact Laws.RowMatch.sneReg x y
  | ldI nnn => exact Laws.RowMatch.ldI nnn
  | rnd x kk => exact Laws.RowMatch.rnd x kk
  | drw x y n => exact Laws.RowMatch.drw x y n
  | skp x => exact Laws.RowMatch.skp x
  | sknp x => exact Laws.RowMatch.sknp x
  | ldVxDt x => exact Laws.RowMatch.ldVxDt x
  | ldVxK x => exact Laws.RowMatch.ldVxK x
  | ldDtVx x => exact Laws.RowMatch.ldDtVx x
  | ldStVx x => exact Laws.RowMatch.ldStVx x
  | addI x => exact Laws.RowMatch.addI x
  | ldF x => exact Laws.RowMatch.ldF x
  | ldB x => exact Laws.RowMatch.ldB x
  | stRegs x => exact Laws.RowMatch.stRegs x
  | ldRegs x => exact Laws.RowMatch.ldRegs x
  | unimpl w => exact Laws.RowMatch.unimpl w

/-- UNIMPL alone has no row among the 33. -/
theorem row_mem_opcodeRows (i : Instr) : i.row ∈ opcodeRows ∨ ∃ w, i = .unimpl w := by
  cases i with
  | unimpl w => exact .inr ⟨w, rfl⟩
  | _ => exact .inl (by simp only [Instr.row]; decide)

/-- Settles O3: a row that selects a word names its instruction, and the row of a defined instruction selects every
word of it. -/
theorem decodeFollowsOpcodeTable : Obligations.DecodeFollowsOpcodeTable := by
  intro w
  refine ⟨fun r listed selects => mnemonic_decodeWord_of_selects listed selects, fun noneSelects => ?_⟩
  obtain ⟨sameWord, -, -⟩ := decodeWord_represents w
  obtain listed | ⟨v, isUnimpl⟩ := row_mem_opcodeRows (decodeWord w)
  · obtain ⟨fits, -⟩ := rowMatch (decodeWord w)
    have selects : rowSelects (decodeWord w).row w = true := beq_iff_eq.mpr (by rwa [sameWord] at fits)
    exact absurd ((noneSelects _ listed).symm.trans selects) Bool.false_ne_true
  · rw [isUnimpl] at sameWord ⊢
    rw [← sameWord, encode]

/-- Settles O6: the decoder, evaluated at each word. -/
theorem wordsWrittenFromTheSpec : Obligations.WordsWrittenFromTheSpec := by
  unfold Obligations.WordsWrittenFromTheSpec
  decide

end Sys2Proof
end

section
/-! The cycle as a whole (R80, R90): what a cycle that can fetch does, and how the timer step goes with it (R86 to
R89). -/

namespace Sys2Proof.Machine

/-! ## A cycle that fetches (R81 to R85) -/

theorem step_of_latched {s : State} {c : OobCause} (latched : s.fault = some c) :
    step s = .refused (.faultLatched c) := by
  simp only [step, latched, refuseCycle]

theorem step_of_canFetch {s : State} (fetches : s.canFetch) :
    step s = endCycle (exec s.nextInstr s.beginCycle) := by
  obtain ⟨unlatched, inRange⟩ := fetches
  simp only [step, unlatched, State.fetchWord_of_le inRange, State.nextInstr]

theorem step_of_exec_next {s u : State} (fetches : s.canFetch) (completes : exec s.nextInstr s.beginCycle = .next u) :
    step s = .next u.timerUpdate := by
  rw [step_of_canFetch fetches, completes, endCycle]

theorem step_of_exec_fault {s : State} {f : Fault} (fetches : s.canFetch)
    (faults : exec s.nextInstr s.beginCycle = .fault f) : step s = .fault f := by
  rw [step_of_canFetch fetches, faults, endCycle]

theorem State.changesOnly_beginCycle (s : State) : ChangesOnly [] [.pc, .report] s s.beginCycle := by
  refine ⟨fun _ _ => rfl, fun p unlisted => ?_⟩
  cases p with
  | pc | report => simp at unlisted
  | mem => exact fun _ => rfl
  | _ => rfl

/-- Settles O8: the word at pc is fetched, and `endCycle` runs the timer step after a handler that completes. -/
theorem stepRunsDecodedInstruction : Obligations.StepRunsDecodedInstruction := by
  rintro s _ fetches rfl
  exact ⟨step_of_canFetch fetches, rfl, rfl, s.changesOnly_beginCycle, fun _ => step_of_exec_next fetches,
    fun _ => step_of_exec_fault fetches⟩

/-- Settles O10: the latch is looked at first. -/
theorem latchedCoreTakesNoStep : Obligations.LatchedCoreTakesNoStep := fun _ _ latched => step_of_latched latched

/-! ## The timer step (R86 to R89) -/

theorem State.sharedSlot_st_toNat (s : State) : s.sharedSlot.st.toNat = s.st.toNat - 1 := by
  rw [State.sharedSlot_st, countDown_toNat]

/-- The delay timer gets the slot that the sound timer does not use. -/
theorem State.sharedSlot_dt_toNat (s : State) : s.sharedSlot.dt.toNat = s.dt.toNat - (1 - s.st.toNat) := by
  rw [State.sharedSlot_dt]
  split_ifs with silent
  · rw [countDown_toNat, silent]; rfl
  · have positive : 0 < s.st.toNat := by bv_omega
    omega

/-- Settles O12, by induction on the number of slots, the first of them taken from both timers together. -/
theorem sharedSlotCountsSoundThenDelay : Obligations.SharedSlotCountsSoundThenDelay := by
  intro k s
  have counts : (sharedSlots k s).st.toNat = s.st.toNat - k ∧
      (sharedSlots k s).dt.toNat = s.dt.toNat - (k - s.st.toNat) := by
    induction k generalizing s with
    | zero => simp [sharedSlots]
    | succ k ih =>
      obtain ⟨sound, delay⟩ := ih s.sharedSlot
      rw [sharedSlots, sound, delay, State.sharedSlot_st_toNat, State.sharedSlot_dt_toNat]
      omega
  exact ⟨counts.1, counts.2, fun shared => by rw [sharedSlots, State.timerUpdate_eq_sharedSlot shared]⟩

theorem State.timerUpdate_of_independentTick {s : State} (independent : s.config.timerPolicy = .independentTick) :
    s.timerUpdate = s := by
  simp only [State.timerUpdate, independent]

theorem State.timerTick_of_unlatched {s : State} (independent : s.config.timerPolicy = .independentTick)
    (unlatched : s.fault = none) : s.timerTick = some s.tickBoth := by
  simp only [State.timerTick, independent, unlatched]

theorem State.timerTick_of_latched {s : State} (latched : s.fault ≠ none) : s.timerTick = none := by
  unfold State.timerTick
  split
  · contradiction
  · rfl

theorem State.timerTick_of_shared {s : State} (shared : s.config.timerPolicy = .sharedSlotPerCycle) :
    s.timerTick = none := by
  simp only [State.timerTick, shared]

/-- The tick's frame: both timers are listed. -/
theorem State.changesOnly_tickBoth (s : State) : ChangesOnly [] [.dt, .st] s s.tickBoth :=
  changesOnly_timers_of_eq rfl (fun unlisted => absurd (by simp) unlisted) fun unlisted => absurd (by simp) unlisted

/-- Settles O13: each policy has one of the two timer steps, and the tick counts each timer down by itself. -/
theorem independentTickTimerUnit : Obligations.IndependentTickTimerUnit := by
  refine fun s => ⟨fun independent => ⟨State.timerUpdate_of_independentTick independent, fun unlatched => ?tick,
    State.timerTick_of_latched⟩, State.timerTick_of_shared⟩
  case tick =>
    exact ⟨s.tickBoth, State.timerTick_of_unlatched independent unlatched, countDown_toNat s.dt, countDown_toNat s.st,
      s.changesOnly_tickBoth⟩

/-- Settles O14: the handler's state is the one the shared slot starts from. -/
theorem handlerRunsBeforeTimerStep : Obligations.HandlerRunsBeforeTimerStep := by
  intro s x fetches shared
  refine ⟨fun next => ?readDelay, fun next => ?setDelay, fun next => ?setSound⟩
  case readDelay =>
    refine ⟨_, step_of_exec_next fetches (by rw [next, exec_ldVxDt]), ?_⟩
    rw [State.timerUpdate_getV, State.getV_setV_same, State.beginCycle_dt]
  case setDelay =>
    refine ⟨_, step_of_exec_next fetches (by rw [next, exec_ldDtVx]), ?_⟩
    rw [State.timerUpdate_eq_sharedSlot (by exact shared), State.sharedSlot_dt]
    change (if s.st = 0 then countDown (s.getV x) else s.getV x).toNat = _
    split_ifs
    · exact countDown_toNat _
    · rfl
  case setSound =>
    refine ⟨_, step_of_exec_next fetches (by rw [next, exec_ldStVx]), ?_, fun running => ?_⟩ <;>
      rw [State.timerUpdate_eq_sharedSlot (by exact shared)]
    · rw [State.sharedSlot_st_toNat, State.beginCycle_getV]
    · rw [State.sharedSlot_dt, State.beginCycle_getV, if_neg running, State.beginCycle_dt]

end Sys2Proof.Machine
end

section
/-! Control flow that can fault: `CALL` and `RET` (R101, R102), nesting (R109), and the two skips on a key (R107, R108).
The stack is reached through `State.pushPc` and `State.popPc` only, the key latch through `State.keyHeld`. -/

namespace Sys2Proof.Machine

/-! ## Frames -/

theorem changesOnly_pc_sp_of_eq {s t : State} (h : t = { s with pc := t.pc, sp := t.sp }) :
    ChangesOnly [] [.pc, .sp] s t := by
  rw [h]
  refine ⟨fun _ _ => rfl, fun p unlisted => ?_⟩
  cases p with
  | pc | sp => simp at unlisted
  | mem => exact fun _ => rfl
  | _ => rfl

theorem changesOnly_pc_sp_stack_of_eq {s t : State} (h : t = { s with pc := t.pc, sp := t.sp, stack := t.stack }) :
    ChangesOnly [] [.pc, .sp, .stack] s t := by
  rw [h]
  refine ⟨fun _ _ => rfl, fun p unlisted => ?_⟩
  cases p with
  | pc | sp | stack => simp at unlisted
  | mem => exact fun _ => rfl
  | _ => rfl

/-! ## Stack (R101, R102) -/

theorem State.pushPc_of_full {s : State} (full : s.sp.val = 16) : s.pushPc = .error .stackOverflow := by
  obtain ⟨-, overflows⟩ | ⟨room, -⟩ := s.pushPc_spec
  · exact overflows
  · omega

theorem State.pushPc_of_room {s : State} (room : s.sp.val < 16) :
    ∃ t, s.pushPc = .ok t ∧ t = { s with sp := t.sp, stack := t.stack } ∧ t.sp.val = s.sp.val + 1 ∧
      t.stack[s.sp.val]? = some s.pc ∧ ∀ k : Nat, k ≠ s.sp.val → t.stack[k]? = s.stack[k]? := by
  obtain ⟨full, -⟩ | ⟨_, pushed⟩ := s.pushPc_spec
  · omega
  · exact ⟨_, pushed, rfl, rfl, by simp [room], fun k other => Vector.getElem?_set_ne room other.symm⟩

theorem State.popPc_of_empty {s : State} (empty : s.sp.val = 0) : s.popPc = .error .stackUnderflow := by
  obtain ⟨-, underflows⟩ | ⟨used, -⟩ := s.popPc_spec
  · exact underflows
  · omega

theorem State.popPc_of_used {s : State} (used : 0 < s.sp.val) :
    ∃ t, s.popPc = .ok t ∧ t = { s with pc := t.pc, sp := t.sp } ∧ t.sp.val + 1 = s.sp.val ∧
      s.stack[s.sp.val - 1]? = some t.pc := by
  obtain ⟨empty, -⟩ | ⟨_, popped⟩ := s.popPc_spec
  · omega
  · exact ⟨_, popped, rfl, Nat.sub_add_cancel used, Vector.getElem?_eq_getElem _⟩

/-! ## Handlers of CALL and RET -/

theorem exec_call_of_full (nnn : Addr12) {s : State} (full : s.sp.val = 16) :
    exec (.call nnn) s = .fault (.outOfBounds .stackOverflow) := by
  simp only [exec, execCall, State.pushPc_of_full full, raiseOutOfBounds]

/-- Everything a call does that finds room. -/
theorem exec_call_of_room (nnn : Addr12) {s : State} (room : s.sp.val < 16) :
    ∃ t, exec (.call nnn) s = .next t ∧ t = { s with pc := t.pc, sp := t.sp, stack := t.stack } ∧
      t.pc = nnn.setWidth 16 ∧ t.sp.val = s.sp.val + 1 ∧ t.stack[s.sp.val]? = some s.pc ∧
      ∀ k : Nat, k ≠ s.sp.val → t.stack[k]? = s.stack[k]? := by
  obtain ⟨t, pushed, onlyStack, counted, stored, others⟩ := State.pushPc_of_room room
  refine ⟨t.jumpTo nnn, ?_, ?_, rfl, counted, stored, others⟩
  · simp only [exec, execCall, pushed]
  · rw [onlyStack]; rfl

theorem exec_ret_of_empty {s : State} (empty : s.sp.val = 0) :
    exec .ret s = .fault (.outOfBounds .stackUnderflow) := by
  simp only [exec, execRet, State.popPc_of_empty empty, complete, raiseOutOfBounds]

/-- Everything a return does that finds an entry. -/
theorem exec_ret_of_used {s : State} (used : 0 < s.sp.val) :
    ∃ t, exec .ret s = .next t ∧ t = { s with pc := t.pc, sp := t.sp } ∧ t.sp.val + 1 = s.sp.val ∧
      s.stack[s.sp.val - 1]? = some t.pc := by
  obtain ⟨t, popped, rest⟩ := State.popPc_of_used used
  exact ⟨t, complete_next.mpr popped, rest⟩

/-- Settles O20: the push stores the return address, and the jump then leaves the stack alone. -/
theorem callPushesAndJumps : Obligations.CallPushesAndJumps := by
  refine fun nnn s => ⟨decodeWord_call nnn, exec_call_of_full nnn, fun room => ?_⟩
  obtain ⟨t, completes, onlyListed, jumped, counted, stored, others⟩ := exec_call_of_room nnn room
  refine ⟨t, completes, stored, others, counted, ?_, changesOnly_pc_sp_stack_of_eq onlyListed⟩
  rw [jumped, BitVec.toNat_setWidth_of_le (by decide)]

/-- Settles O21: the pop is all the handler does. -/
theorem returnPopsPc : Obligations.ReturnPopsPc := by
  refine fun s => ⟨decodeWord_ret, exec_ret_of_empty, fun used => ?_⟩
  obtain ⟨t, completes, onlyListed, counted, taken⟩ := exec_ret_of_used used
  exact ⟨t, completes, counted, taken, changesOnly_pc_sp_of_eq onlyListed⟩

/-! ## Nesting (R109) -/

theorem runHandlers_cons_next {i : Instr} {is : List Instr} {s t : State} (completes : exec i s.beginCycle = .next t) :
    runHandlers (i :: is) s = runHandlers is t := by
  simp only [runHandlers, completes]

theorem runHandlers_cons_fault {i : Instr} {is : List Instr} {s : State} {f : Fault}
    (faults : exec i s.beginCycle = .fault f) : runHandlers (i :: is) s = .fault f := by
  simp only [runHandlers, faults]

/-- The return addresses of the calls after the first are those of a chain that starts at the first one's target. -/
theorem returnAddress_cons {s t : State} {nnn : Addr12} (jumped : t.pc = nnn.setWidth 16) (targets : List Addr12)
    (m : Nat) : returnAddress s (nnn :: targets) (m + 1) = returnAddress t targets m := by
  cases m with
  | zero => simp [returnAddress, jumped]
  | succ m => simp [returnAddress]

/-- A chain of calls that finds room lists its return addresses on the stack, above what was there. -/
theorem runHandlers_calls (targets : List Addr12) (s : State) (room : s.sp.val + targets.length ≤ 16) :
    ∃ t, runHandlers (targets.map .call) s = .next t ∧ t.sp.val = s.sp.val + targets.length ∧
      (∀ k : Nat, k < s.sp.val → t.stack[k]? = s.stack[k]?) ∧
      ∀ m : Nat, m < targets.length → t.stack[s.sp.val + m]? = some (returnAddress s targets m) := by
  induction targets generalizing s with
  | nil => exact ⟨s, rfl, rfl, fun _ _ => rfl, fun _ none => absurd none (Nat.not_lt_zero _)⟩
  | cons nnn targets ih =>
    rw [List.length_cons] at room
    obtain ⟨t, completes, -, jumped, counted, stored, others⟩ :=
      exec_call_of_room nnn (s := s.beginCycle) (by rw [State.beginCycle_sp]; omega)
    rw [State.beginCycle_sp] at counted stored others
    obtain ⟨u, runs, allCounted, kept, listed⟩ := ih t (by omega)
    refine ⟨u, (runHandlers_cons_next completes).trans runs, ?_, fun k below => ?_, fun m inChain => ?_⟩
    · rw [allCounted, counted, List.length_cons]; omega
    · rw [kept k (by omega), others k (by omega), State.beginCycle_stack]
    · cases m with
      | zero => rw [Nat.add_zero, kept _ (by omega), stored]; rfl
      | succ m =>
        have deeper := listed m (by simpa using inChain)
        rwa [counted, Nat.add_right_comm, Nat.add_assoc, ← returnAddress_cons (s := s) jumped] at deeper

/-- Returns in a row take entries off the stack from the top; the last one taken is where pc stands. -/
theorem runHandlers_returns (j : Nat) (s : State) (used : j < s.sp.val) :
    ∃ t, runHandlers (List.replicate (j + 1) .ret) s = .next t ∧ t.sp.val + (j + 1) = s.sp.val ∧
      s.stack[s.sp.val - (j + 1)]? = some t.pc := by
  induction j generalizing s with
  | zero =>
    obtain ⟨t, completes, -, counted, taken⟩ := exec_ret_of_used (s := s.beginCycle) used
    exact ⟨t, runHandlers_cons_next completes, counted, taken⟩
  | succ j ih =>
    obtain ⟨t, completes, onlyListed, counted, -⟩ := exec_ret_of_used (s := s.beginCycle) (by
      rw [State.beginCycle_sp]; omega)
    rw [State.beginCycle_sp] at counted
    have sameStack : t.stack = s.stack := by rw [onlyListed]; rfl
    obtain ⟨u, runs, allCounted, taken⟩ := ih t (by omega)
    rw [sameStack, show t.sp.val - (j + 1) = s.sp.val - (j + 1 + 1) by omega] at taken
    exact ⟨u, (runHandlers_cons_next completes).trans runs, by omega, taken⟩

/-- A chain of calls that the stack has no room for ends at the call that finds it full. -/
theorem runHandlers_calls_overflow (targets : List Addr12) (s : State) (noRoom : 16 < s.sp.val + targets.length) :
    runHandlers (targets.map .call) s = .fault (.outOfBounds .stackOverflow) := by
  induction targets generalizing s with
  | nil =>
    have := s.sp.isLt
    rw [List.length_nil] at noRoom
    omega
  | cons nnn targets ih =>
    rw [List.length_cons] at noRoom
    by_cases full : s.sp.val = 16
    · exact runHandlers_cons_fault (exec_call_of_full nnn (s := s.beginCycle) full)
    · have room : s.beginCycle.sp.val < 16 := by have := s.sp.isLt; rw [State.beginCycle_sp]; omega
      obtain ⟨t, completes, -, -, counted, -, -⟩ := exec_call_of_room nnn room
      rw [State.beginCycle_sp] at counted
      exact (runHandlers_cons_next completes).trans (ih t (by omega))

/-- Settles O22: the calls list their return addresses on the stack, and the returns read them from the top down. -/
theorem callsNestAndReturnInReverse : Obligations.CallsNestAndReturnInReverse := by
  refine fun targets s => ⟨fun room => ?_, runHandlers_calls_overflow targets s⟩
  obtain ⟨t, runs, counted, -, listed⟩ := runHandlers_calls targets s room
  refine ⟨t, runs, counted, fun j inChain => ?_⟩
  obtain ⟨u, returns, allCounted, taken⟩ := runHandlers_returns j t (by omega)
  refine ⟨u, returns, by omega, ?_⟩
  have onStack := listed (targets.length - 1 - j) (by omega)
  rw [show s.sp.val + (targets.length - 1 - j) = t.sp.val - (j + 1) by omega, taken] at onStack
  exact Option.some.inj onStack

/-! ## Skips on a key (R107, R108) -/

theorem State.keyHeld_of_lt {s : State} {b : Byte} (noKey : 15 < b.toNat) : s.keyHeld b = .error .keyIndex := by
  obtain ⟨-, faults⟩ | ⟨isKey, -⟩ := s.keyHeld_spec b
  · exact faults
  · omega

theorem State.keyHeld_of_key {s : State} {b : Byte} {k : Fin 16} (number : b.toNat = k.val) :
    s.keyHeld b = .ok s.key[k] := by
  obtain ⟨noKey, -⟩ | ⟨isKey, answers⟩ := s.keyHeld_spec b
  · omega
  · simp only [answers, number, Fin.getElem_fin]

theorem exec_skp_of_lt {x : Nibble} {s : State} (noKey : 15 < (s.getV x).toNat) :
    exec (.skp x) s = .fault (.outOfBounds .keyIndex) := by
  simp only [exec, execSkp, State.keyHeld_of_lt noKey, raiseOutOfBounds]

theorem exec_sknp_of_lt {x : Nibble} {s : State} (noKey : 15 < (s.getV x).toNat) :
    exec (.sknp x) s = .fault (.outOfBounds .keyIndex) := by
  simp only [exec, execSknp, State.keyHeld_of_lt noKey, raiseOutOfBounds]

theorem exec_skp_of_key {x : Nibble} {s : State} {k : Fin 16} (number : (s.getV x).toNat = k.val) :
    exec (.skp x) s = .next (s.skipIf s.key[k]) := by
  simp only [exec, execSkp, State.keyHeld_of_key number]

theorem exec_sknp_of_key {x : Nibble} {s : State} {k : Fin 16} (number : (s.getV x).toNat = k.val) :
    exec (.sknp x) s = .next (s.skipIf !s.key[k]) := by
  simp only [exec, execSknp, State.keyHeld_of_key number]

/-- Settles O25: the latch is asked first, and its answer, or its negation, is the condition of the skip. -/
theorem skipsOnKey : Obligations.SkipsOnKey := by
  refine fun x s => ⟨decodeWord_skp x, decodeWord_sknp x, fun noKey => ⟨exec_skp_of_lt noKey, exec_sknp_of_lt noKey⟩,
    fun k number => ⟨?held, ?released⟩⟩
  case held => exact ⟨_, exec_skp_of_key number, s.skipIf_pc _, s.changesOnly_skipIf _⟩
  case released =>
    have skips : (s.skipIf !s.key[k]).pc = if s.key[k] = true then s.pc else s.pc + 2 := by
      rw [State.skipIf_pc]
      cases s.key[k] <;> rfl
    exact ⟨_, exec_sknp_of_key number, skips, s.changesOnly_skipIf _⟩

end Sys2Proof.Machine
end

section
/-! Logic (R123 to R125), shifts (R128, R130), the index add (R141) and the random byte (R160): each handler is one
register write, a result followed by its flag, or one update of I. -/

namespace Sys2Proof.Machine

/-! ## Logic: no flag -/

theorem exec_or (x y : Nibble) (s : State) : exec (.or x y) s = .next (s.setV x (s.getV x ||| s.getV y)) := rfl

theorem exec_and (x y : Nibble) (s : State) : exec (.and x y) s = .next (s.setV x (s.getV x &&& s.getV y)) := rfl

theorem exec_xor (x y : Nibble) (s : State) : exec (.xor x y) s = .next (s.setV x (s.getV x ^^^ s.getV y)) := rfl

/-- Settles O27: each handler is one `setV` of the bitwise result, whose frame is the destination alone. -/
theorem logicWritesNoFlag : Obligations.LogicWritesNoFlag := by
  intro x y s
  refine ⟨decodeWord_or x y, decodeWord_and x y, decodeWord_xor x y, ?or, ?and, ?xor⟩
  case or => exact ⟨_, exec_or x y s, s.changesOnly_setV x _, fun k => by rw [State.getV_setV_same, BitVec.getLsbD_or]⟩
  case and =>
    exact ⟨_, exec_and x y s, s.changesOnly_setV x _, fun k => by rw [State.getV_setV_same, BitVec.getLsbD_and]⟩
  case xor =>
    exact ⟨_, exec_xor x y s, s.changesOnly_setV x _, fun k => by rw [State.getV_setV_same, BitVec.getLsbD_xor]⟩

/-! ## Shifts: the flag is the bit shifted out -/

theorem exec_shr (x y : Nibble) (s : State) :
    exec (.shr x y) s = .next (s.setResultAndFlag x (s.getV x >>> 1) (shiftedOutRight (s.getV x))) := rfl

theorem exec_shl (x y : Nibble) (s : State) :
    exec (.shl x y) s = .next (s.setResultAndFlag x (s.getV x <<< 1) (shiftedOutLeft (s.getV x))) := rfl

theorem flagByte_toNat (b : Bool) : (flagByte b).toNat = b.toNat := by cases b <;> rfl

theorem shiftedOutRight_toNat (a : Byte) : (shiftedOutRight a).toNat = a.toNat % 2 := by
  rw [shiftedOutRight, BitVec.getLsbD, Nat.toNat_testBit, pow_zero, Nat.div_one]

/-- Nothing lies above bit 7, so dividing it out leaves no remainder to take. -/
theorem shiftedOutLeft_toNat (a : Byte) : (shiftedOutLeft a).toNat = a.toNat / 128 := by
  have := a.isLt
  rw [shiftedOutLeft, BitVec.getLsbD, Nat.toNat_testBit]
  omega

theorem byte_shiftRight_one_toNat (a : Byte) : (a >>> 1).toNat = a.toNat / 2 := by
  rw [BitVec.toNat_ushiftRight, Nat.shiftRight_eq_div_pow, pow_one]

theorem byte_shiftLeft_one_toNat (a : Byte) : (a <<< 1).toNat = 2 * a.toNat % 256 := by
  rw [BitVec.toNat_shiftLeft, Nat.shiftLeft_eq, pow_one, Nat.mul_comm]

/-- Settles O30: the shifted byte goes to the destination first and the bit shifted out to VF last. -/
theorem shiftsSetShiftedBit : Obligations.ShiftsSetShiftedBit := by
  intro x y s
  refine ⟨decodeWord_shr x y, decodeWord_shl x y, ?right, ?left⟩
  case right =>
    refine ⟨_, exec_shr x y s, fun other => ?_, ?_, s.changesOnly_setResultAndFlag x _ _⟩
    · rw [s.getV_setResultAndFlag_of_ne _ _ other, byte_shiftRight_one_toNat]
    · rw [State.getV_vF_setResultAndFlag, flagByte_toNat, shiftedOutRight_toNat]
  case left =>
    refine ⟨_, exec_shl x y s, fun other => ?_, ?_, s.changesOnly_setResultAndFlag x _ _⟩
    · rw [s.getV_setResultAndFlag_of_ne _ _ other, byte_shiftLeft_one_toNat]
    · rw [State.getV_vF_setResultAndFlag, flagByte_toNat, shiftedOutLeft_toNat]

/-! ## The index add -/

theorem exec_addI (x : Nibble) (s : State) :
    exec (.addI x) s = .next { s with index := s.index + (s.getV x).setWidth 16 } := rfl

/-- Settles O32: the byte is zero-extended, and the sum wraps at 16 bits. -/
theorem indexAddWraps : Obligations.IndexAddWraps := by
  refine fun x s => ⟨decodeWord_addI x, _, exec_addI x s, ?_, changesOnly_index_of_eq rfl⟩
  rw [BitVec.toNat_add, BitVec.toNat_setWidth_of_le (by decide)]

/-! ## The random byte -/

theorem exec_rnd (x : Nibble) (kk : Byte) (s : State) :
    exec (.rnd x kk) s =
      .next ({ s with draws := s.draws + 1 }.setV x (Config.randomByte s.draws &&& kk)) := rfl

theorem changesOnly_draws_of_eq {s t : State} (h : t = { s with draws := t.draws }) :
    ChangesOnly [] [.draws] s t := by
  rw [h]
  refine ⟨fun _ _ => rfl, fun p unlisted => ?_⟩
  cases p with
  | draws => exact absurd (List.mem_singleton_self _) unlisted
  | mem => exact fun _ => rfl
  | _ => rfl

/-- The frame of a draw: the counter goes on, and the destination takes the byte. -/
theorem changesOnly_rnd (s : State) (x : Nibble) (b : Byte) :
    ChangesOnly [x] [.draws] s ({ s with draws := s.draws + 1 }.setV x b) :=
  (changesOnly_draws_of_eq (t := { s with draws := s.draws + 1 }) rfl).trans (State.changesOnly_setV _ x b)

/-- Settles O37: the next free byte, whatever it is, masked. -/
theorem randomByteMasked : Obligations.RandomByteMasked := by
  refine fun x kk s => ⟨decodeWord_rnd x kk, _, exec_rnd x kk s, ?_, fun k masked => ?_, rfl, changesOnly_rnd s x _⟩
  · rw [State.getV_setV_same]
  · rw [State.getV_setV_same, BitVec.getLsbD_and, masked, Bool.and_false]

end Sys2Proof.Machine
end

section
/-! Stores and loads of a block: `LD B, Vx` (R143), `LD [I], Vx` (R150) and `LD Vx, [I]` (R151). The two stores are one
`State.storeBytes`, the load one `State.loadBytes`. -/

namespace Sys2Proof.Machine

/-! ## Blocks of memory (R43, R44) -/

theorem State.dataAddr_eq (s : State) (k : Nat) : s.dataAddr k = s.index.toNat + k := rfl

theorem State.dataAddr_zero_add (s : State) (k : Nat) : s.dataAddr 0 + k = s.dataAddr k := by
  rw [State.dataAddr_eq, State.dataAddr_eq, Nat.add_zero]

/-- Everything a block store does whose range lies in memory. -/
theorem State.storeBytes_of_fits {a : Nat} {bs : List Byte} (s : State) (fits : a + bs.length ≤ memSize) :
    ∃ t, State.storeBytes a bs s = .ok t ∧ t = { s with mem := t.mem } ∧
      (∀ (k : Nat) (b : Byte), bs[k]? = some b → t.byteAt (a + k) = b) ∧
      ∀ i, (∀ k, k < bs.length → i ≠ a + k) → t.byteAt i = s.byteAt i := by
  obtain ⟨t, stored⟩ := State.storeBytes_succeeds a bs s fits
  obtain ⟨-, onlyMemory, bytes, -⟩ := State.storeBytes_spec stored
  refine ⟨t, stored, onlyMemory, fun k b listed => ?_, fun i outside => ?_⟩
  · rw [bytes, if_pos (Nat.le_add_right a k), Nat.add_sub_cancel_left, listed, Option.getD_some]
  · rw [bytes]
    split_ifs with above
    · have beyond : bs.length ≤ i - a := by
        by_contra inside
        exact outside (i - a) (by omega) (by omega)
      rw [List.getElem?_eq_none beyond, Option.getD_none]
    · rfl

/-- The `n` bytes at I and after. -/
def State.block (s : State) (n : Nat) : List Byte := (List.range' (s.dataAddr 0) n).map s.byteAt

theorem State.block_length (s : State) (n : Nat) : (s.block n).length = n := by simp [State.block]

theorem State.block_getElem? (s : State) (n k : Nat) :
    (s.block n)[k]? = if k < n then some (s.byteAt (s.dataAddr k)) else none := by
  split_ifs with inside
  · rw [State.block, List.getElem?_map, List.getElem?_range' inside, Nat.one_mul, State.dataAddr_zero_add]
    rfl
  · exact List.getElem?_eq_none (by rw [State.block_length]; omega)

theorem State.loadBytes_of_fits {s : State} {n : Nat} (fits : n = 0 ∨ s.index.toNat + n ≤ memSize) :
    s.loadBytes (s.dataAddr 0) n = .ok (s.block n) :=
  (s.loadBytes_eq _ _).trans (if_pos fits)

theorem State.loadBytes_of_beyond {s : State} {n : Nat} (beyond : ¬ (n = 0 ∨ s.index.toNat + n ≤ memSize)) :
    s.loadBytes (s.dataAddr 0) n = .error .memRead :=
  (s.loadBytes_eq _ _).trans (if_neg beyond)

/-! ## The decimal digits (R143) -/

theorem exec_ldB (x : Nibble) (s : State) :
    exec (.ldB x) s = complete (State.storeBytes (s.dataAddr 0) (decimalDigits (s.getV x)) s) := rfl

theorem decimalDigits_length (v : Byte) : (decimalDigits v).length = 3 := rfl

/-- A digit fits a byte, so the byte stored is the digit. -/
theorem byteOfDigit_toNat {d : Nat} (small : d < 256) : (BitVec.ofNat 8 d).toNat = d := by
  rw [BitVec.toNat_ofNat, Nat.mod_eq_of_lt (by omega)]

theorem exec_ldB_of_le {x : Nibble} {s : State} (beyond : 4096 ≤ s.index.toNat + 2) :
    exec (.ldB x) s = .fault (.outOfBounds .memWrite) := by
  rw [exec_ldB, complete_fault]
  refine State.storeBytes_faults _ _ s (List.cons_ne_nil _ _) ?_
  rw [decimalDigits_length, State.dataAddr_eq, memSize]
  omega

/-- Everything a digit store does whose range lies in memory. -/
theorem exec_ldB_of_lt (x : Nibble) {s : State} (fits : s.index.toNat + 2 < 4096) :
    ∃ t, exec (.ldB x) s = .next t ∧ t = { s with mem := t.mem } ∧
      (∀ (k : Nat) (b : Byte), (decimalDigits (s.getV x))[k]? = some b → t.byteAt (s.dataAddr k) = b) ∧
      ∀ a, (∀ k, k ≤ 2 → a ≠ s.dataAddr k) → t.byteAt a = s.byteAt a := by
  obtain ⟨t, stored, onlyMemory, digits, others⟩ :=
    State.storeBytes_of_fits (a := s.dataAddr 0) (bs := decimalDigits (s.getV x)) s (by
      rw [decimalDigits_length, State.dataAddr_eq, memSize]; omega)
  simp only [State.dataAddr_zero_add, decimalDigits_length, Nat.lt_succ_iff] at digits others
  exact ⟨t, complete_next.mpr stored, onlyMemory, digits, others⟩

/-- Settles O33: the three digits are the bytes of the block stored at I. -/
theorem decimalDigitsStored : Obligations.DecimalDigitsStored := by
  refine fun x s => ⟨decodeWord_ldB x, exec_ldB_of_le, fun fits => ?_⟩
  obtain ⟨t, completes, onlyMemory, digits, others⟩ := exec_ldB_of_lt x fits
  have small := (s.getV x).isLt
  refine ⟨t, completes, ?hundreds, ?tens, ?units, others, changesOnly_mem_of_eq onlyMemory⟩
  case hundreds => rw [digits 0 _ rfl, byteOfDigit_toNat (by omega)]
  case tens => rw [digits 1 _ rfl, byteOfDigit_toNat (by omega)]
  case units => rw [digits 2 _ rfl, byteOfDigit_toNat (by omega)]

/-! ## The register store (R150) -/

theorem exec_stRegs_of_le {x : Nibble} {s : State} (beyond : 4096 ≤ s.index.toNat + x.toNat) :
    exec (.stRegs x) s = .fault (.outOfBounds .memWrite) :=
  if_pos beyond

/-- Everything a register store does whose range lies in memory. -/
theorem exec_stRegs_of_lt {x : Nibble} {s : State} (fits : s.index.toNat + x.toNat < 4096) :
    ∃ t, exec (.stRegs x) s = .next t ∧ t = { s with mem := t.mem } ∧
      (∀ r : Nibble, r.toNat ≤ x.toNat → t.byteAt (s.dataAddr r.toNat) = s.getV r) ∧
      ∀ a, (∀ k, k ≤ x.toNat → a ≠ s.dataAddr k) → t.byteAt a = s.byteAt a := by
  have length := s.firstRegs_length (x.toNat + 1) x.isLt
  obtain ⟨t, stored, onlyMemory, registers, others⟩ :=
    State.storeBytes_of_fits (a := s.dataAddr 0) (bs := s.firstRegs (x.toNat + 1)) s (by
      rw [length, State.dataAddr_eq, memSize]; omega)
  simp only [State.dataAddr_zero_add, length, Nat.lt_succ_iff] at registers others
  refine ⟨t, ?_, onlyMemory, fun r listed => ?_, others⟩
  · exact (if_neg (Nat.not_le.mpr fits)).trans (complete_next.mpr stored)
  · exact registers r.toNat _ (s.firstRegs_get _ r (Nat.lt_succ_of_le listed))

/-- Settles O34: the registers are the bytes of the block stored at I. -/
theorem registersStored : Obligations.RegistersStored := by
  refine fun x s => ⟨decodeWord_stRegs x, exec_stRegs_of_le, fun fits => ?_⟩
  obtain ⟨t, completes, onlyMemory, registers, others⟩ := exec_stRegs_of_lt fits
  exact ⟨t, completes, registers, others, changesOnly_mem_of_eq onlyMemory⟩

/-! ## The register load (R151) -/

theorem exec_ldRegs_of_le {x : Nibble} {s : State} (beyond : 4096 ≤ s.index.toNat + x.toNat) :
    exec (.ldRegs x) s = .fault (.outOfBounds .memRead) :=
  if_pos beyond

theorem exec_ldRegs_of_lt {x : Nibble} {s : State} (fits : s.index.toNat + x.toNat < 4096) :
    exec (.ldRegs x) s = .next (s.setFirstRegs (s.block (x.toNat + 1))) := by
  have inMemory : ¬ memSize ≤ s.dataAddr x.toNat := Nat.not_le.mpr fits
  have loaded : s.loadBytes (s.dataAddr 0) (x.toNat + 1) = .ok (s.block (x.toNat + 1)) :=
    State.loadBytes_of_fits (.inr fits)
  simp only [exec, execLdRegs, if_neg inMemory, loaded]

theorem State.getV_setFirstRegs_block (s : State) (n : Nat) (r : Nibble) :
    (s.setFirstRegs (s.block n)).getV r = if r.toNat < n then s.byteAt (s.dataAddr r.toNat) else s.getV r := by
  rw [State.getV_setFirstRegs, State.block_getElem?]
  split_ifs <;> rfl

theorem State.same_setFirstRegs (s : State) (bs : List Byte) (p : Part) : p.same s (s.setFirstRegs bs) := by
  cases p with
  | _ => simp [Part.same]

/-- Settles O35: the block read at I goes to the registers up to x, and nothing else is written. -/
theorem registersLoaded : Obligations.RegistersLoaded := by
  refine fun x s => ⟨decodeWord_ldRegs x, exec_ldRegs_of_le, fun fits => ?_⟩
  refine ⟨_, exec_ldRegs_of_lt fits, fun r listed => ?loaded, fun r above => ?kept, s.same_setFirstRegs _⟩
  case loaded => rw [State.getV_setFirstRegs_block, if_pos (Nat.lt_succ_of_le listed)]
  case kept => rw [State.getV_setFirstRegs_block, if_neg (Nat.not_lt.mpr above)]

/-- Settles O36: the load reads at each address what the store left there. -/
theorem storeThenLoadRestoresRegisters : Obligations.StoreThenLoadRestoresRegisters := by
  intro x s fits
  obtain ⟨t, completes, -, stored, -⟩ := exec_stRegs_of_lt fits
  refine ⟨t, completes, fun u sameIndex sameBytes => ?_⟩
  obtain ⟨-, -, loads⟩ := registersLoaded x u
  obtain ⟨v, completes', loaded, -⟩ := loads (by rw [sameIndex]; exact fits)
  refine ⟨v, completes', fun r listed => ?_⟩
  rw [loaded r listed, sameBytes, State.dataAddr_eq, sameIndex, ← State.dataAddr_eq, stored r listed]

end Sys2Proof.Machine
end

section
/-! The sprite draw (R166, R167): the compositor's laws (`cellAt_plotRows`, `collided_plotRows`) read through the
display port and `spriteCovers`. -/

namespace Sys2Proof.Machine

/-! ## Cells -/

theorem State.displayPort_eq_cellAt (s : State) (px : Fin 64) (py : Fin 32) :
    s.displayPort px py = cellAt s.disp px.val py.val := by
  simp only [State.displayPort, cellAt, Nat.mod_eq_of_lt px.isLt, Nat.mod_eq_of_lt py.isLt]

/-- The display port shows the whole display. -/
theorem disp_eq_of_displayPort {s t : State}
    (same : ∀ (px : Fin 64) (py : Fin 32), s.displayPort px py = t.displayPort px py) : s.disp = t.disp := by
  refine Vector.ext fun i inDisplay => ?_
  have cell := same ⟨i % 64, by omega⟩ ⟨i / 64, by omega⟩
  simpa only [State.displayPort, Nat.div_add_mod] using cell

/-! ## The sprite (R166) -/

/-- The bound on the last row of the sprite is the bound on the block of its rows. -/
theorem spriteInMemory_iff_block (s : State) (n : Nibble) :
    spriteInMemory s n ↔ n.toNat = 0 ∨ s.index.toNat + n.toNat ≤ memSize := by
  unfold spriteInMemory memSize
  omega

/-- A cell is hit by the rows of the sprite when the sprite covers it. -/
theorem rowsHit_block (s : State) (x y n : Nibble) (px : Fin 64) (py : Fin 32) :
    rowsHit (s.spriteColumn x) (s.spriteRow y) (s.block n.toNat) px.val py.val = spriteCovers s x y n px py := by
  have column : s.spriteColumn x % 64 = s.spriteColumn x := Nat.mod_mod _ _
  have row : s.spriteRow y % 32 = s.spriteRow y := Nat.mod_mod _ _
  simp only [rowsHit, spriteCovers, offsetX, offsetY, column, row, State.block_getElem?]
  split_ifs with isRow <;> simp [isRow]

/-- A sprite collides exactly when one of the cells it hits was set. -/
theorem collided_plotRows_iff (x0 y0 : Nat) (bs : List Byte) (short : bs.length ≤ 32) (d : Display) :
    (plotRows x0 y0 bs (d, false)).2 = true ↔
      ∃ (px : Fin 64) (py : Fin 32), cellAt d px.val py.val = true ∧ rowsHit x0 y0 bs px.val py.val = true := by
  rw [collided_plotRows x0 y0 bs short]
  constructor
  · rintro (impossible | ⟨r, j, inRow, bit, set⟩)
    · exact absurd impossible Bool.false_ne_true
    · have isRow : r < bs.length := by
        by_contra noRow
        simp [List.getElem?_eq_none (Nat.not_lt.mp noRow)] at bit
      have column : offsetX x0 ((x0 + j) % 64) = j := by simp only [offsetX]; omega
      have row : offsetY y0 ((y0 + r) % 32) = r := by simp only [offsetY]; omega
      refine ⟨⟨(x0 + j) % 64, by omega⟩, ⟨(y0 + r) % 32, by omega⟩, ?_, ?_⟩
      · rwa [cellAt_congr d (Nat.mod_mod _ _) (Nat.mod_mod _ _)]
      · simp only [rowsHit, column, row, inRow, bit, decide_true, Bool.and_self]
  · rintro ⟨px, py, set, hit⟩
    simp only [rowsHit, Bool.and_eq_true, decide_eq_true_eq] at hit
    obtain ⟨inRow, bit⟩ := hit
    refine .inr ⟨offsetY y0 py.val, offsetX x0 px.val, inRow, bit, ?_⟩
    rwa [cellAt_congr d (px := px.val) (py := py.val) (by simp only [offsetX]; omega) (by simp only [offsetY]; omega)]

/-! ## Handler -/

/-- The display and the collision that the draw computes. -/
def State.drawn (s : State) (x y n : Nibble) : Display × Bool :=
  plotRows (s.spriteColumn x) (s.spriteRow y) (s.block n.toNat) (s.disp, false)

theorem exec_drw_of_beyond (x y : Nibble) {n : Nibble} {s : State} (beyond : ¬ spriteInMemory s n) :
    exec (.drw x y n) s = .fault (.outOfBounds .memRead) := by
  simp only [exec, execDrw, State.loadBytes_of_beyond (mt (spriteInMemory_iff_block s n).mpr beyond), raiseOutOfBounds]

theorem exec_drw_of_inMemory (x y : Nibble) {n : Nibble} {s : State} (inMemory : spriteInMemory s n) :
    exec (.drw x y n) s =
      .next ({ s with disp := (s.drawn x y n).1, redraw := true }.setV vF (flagByte (s.drawn x y n).2)) := by
  simp only [exec, execDrw, State.loadBytes_of_fits ((spriteInMemory_iff_block s n).mp inMemory), State.drawn]

theorem cellAt_drawn (s : State) (x y n : Nibble) (px : Fin 64) (py : Fin 32) :
    cellAt (s.drawn x y n).1 px.val py.val = (s.displayPort px py ^^ spriteCovers s x y n px py) := by
  have short : (s.block n.toNat).length ≤ 32 := by have := n.isLt; rw [State.block_length]; omega
  rw [State.drawn, cellAt_plotRows _ _ _ short, rowsHit_block, State.displayPort_eq_cellAt]

theorem collided_drawn (s : State) (x y n : Nibble) :
    (s.drawn x y n).2 = true ↔
      ∃ (px : Fin 64) (py : Fin 32), s.displayPort px py = true ∧ spriteCovers s x y n px py = true := by
  have short : (s.block n.toNat).length ≤ 32 := by have := n.isLt; rw [State.block_length]; omega
  simp only [State.drawn, collided_plotRows_iff _ _ _ short, rowsHit_block, State.displayPort_eq_cellAt]

theorem flagByte_eq_one_or_zero (b : Bool) : flagByte b = 1 ∨ flagByte b = 0 := by
  cases b
  · exact .inr rfl
  · exact .inl rfl

theorem flagByte_eq_one_iff (b : Bool) : flagByte b = 1 ↔ b = true := by cases b <;> decide

/-- The frame of a draw: display, redraw flag and VF. -/
theorem changesOnly_drw (s : State) (d : Display) (f : Byte) :
    ChangesOnly [vF] [.disp, .redraw] s ({ s with disp := d, redraw := true }.setV vF f) :=
  (changesOnly_disp_redraw_of_eq (t := { s with disp := d, redraw := true }) rfl).trans (State.changesOnly_setV _ vF f)

/-- Settles O39: the compositor toggles the cells that the sprite covers, and VF is its collision flag. -/
theorem drawCompositesByXor : Obligations.DrawCompositesByXor := by
  refine fun x y n s => ⟨decodeWord_drw x y n, exec_drw_of_beyond x y, fun inMemory => ?_⟩
  refine ⟨_, exec_drw_of_inMemory x y inMemory, fun px py => ?cells, ?flag, ?collision, rfl, changesOnly_drw s _ _⟩
  case cells => rw [State.displayPort_eq_cellAt, State.setV_disp, cellAt_drawn]
  case flag => rw [State.getV_setV_same]; exact flagByte_eq_one_or_zero _
  case collision => rw [State.getV_setV_same, flagByte_eq_one_iff, collided_drawn]

/-! ## Drawing twice (R167) -/

/-- The sprite lies on the same cells wherever its anchor and its bytes are the same. -/
theorem spriteCovers_congr {s t : State} {x y : Nibble} (n : Nibble) (column : t.getV x = s.getV x)
    (row : t.getV y = s.getV y) (index : t.index = s.index) (bytes : ∀ a, t.byteAt a = s.byteAt a) (px : Fin 64)
    (py : Fin 32) : spriteCovers t x y n px py = spriteCovers s x y n px py := by
  have sameColumn : t.spriteColumn x = s.spriteColumn x := by rw [State.spriteColumn, column, State.spriteColumn]
  have sameRow : t.spriteRow y = s.spriteRow y := by rw [State.spriteRow, row, State.spriteRow]
  have sameAddr (k : Nat) : t.dataAddr k = s.dataAddr k := by rw [State.dataAddr, index, State.dataAddr]
  simp only [spriteCovers]
  rw [sameColumn, sameRow, sameAddr, bytes]

/-- Settles O40: the two draws toggle the same cells, and the second meets set what the first left set. -/
theorem drawTwiceRestoresDisplay : Obligations.DrawTwiceRestoresDisplay := by
  intro x y n s inMemory
  obtain ⟨-, -, draws⟩ := drawCompositesByXor x y n s
  obtain ⟨t, completes, cells, flag, collides, -, -, kept⟩ := draws inMemory
  refine ⟨t, completes, fun column row => ?_⟩
  have sameIndex : t.index = s.index := kept .index (by simp)
  have covers := spriteCovers_congr n column row sameIndex (kept .mem (by simp))
  obtain ⟨-, -, drawsAgain⟩ := drawCompositesByXor x y n t
  obtain ⟨u, completesAgain, cellsAgain, -, collidesAgain, -, -⟩ :=
    drawsAgain (by unfold spriteInMemory at inMemory ⊢; rwa [sameIndex])
  refine ⟨u, completesAgain, disp_eq_of_displayPort fun px py => ?restored, fun blank => ⟨?noCollision, ?collision⟩⟩
  case restored => rw [cellsAgain, cells, covers, Bool.xor_assoc, Bool.xor_self, Bool.xor_false]
  case noCollision =>
    refine flag.resolve_left fun collided => ?_
    obtain ⟨px, py, set, covered⟩ := collides.mp collided
    exact absurd ((blank px py covered).symm.trans set) Bool.false_ne_true
  case collision =>
    rw [collidesAgain]
    refine exists_congr fun px => exists_congr fun py => ?_
    rw [covers, cells, and_iff_right_iff_imp]
    intro covered
    rw [blank px py covered, covered, Bool.false_xor]

end Sys2Proof.Machine
end

section
/-! Outcomes (R201, R206): every handler completes or faults as R201's table says. `exec_outcome` is the one case
analysis; the statements about instructions and about cycles follow from it. -/

namespace Sys2Proof.Machine

/-! ## Handlers -/

/-- The handler completes with no cause listed, or faults with the listed cause. -/
def OutcomeAsListed (i : Instr) (s : State) : Prop :=
  (oobCause i s = none ∧ ∃ t, exec i s = .next t) ∨
    ∃ c, oobCause i s = some c ∧ exec i s = .fault (.outOfBounds c)

/-- An instruction with one row in R201's table. -/
theorem outcomeAsListed_of_row {i : Instr} {s : State} {p : Prop} [Decidable p] {c : OobCause}
    (row : oobCause i s = if p then some c else none) (faults : p → exec i s = .fault (.outOfBounds c))
    (completes : ¬ p → ∃ t, exec i s = .next t) : OutcomeAsListed i s := by
  by_cases h : p
  · exact .inr ⟨c, row.trans (if_pos h), faults h⟩
  · exact .inl ⟨row.trans (if_neg h), completes h⟩

theorem spriteInMemory_iff (s : State) (n : Nibble) :
    spriteInMemory s n ↔ ¬ (1 ≤ n.toNat ∧ 4096 ≤ s.index.toNat + n.toNat - 1) := by
  unfold spriteInMemory
  omega

/-- The number of a register that holds at most 15 is the number of a key. -/
theorem exists_key_of_not_lt {b : Byte} (isKey : ¬ 15 < b.toNat) : ∃ k : Fin 16, b.toNat = k.val :=
  ⟨⟨b.toNat, by omega⟩, rfl⟩

theorem exec_outcome (i : Instr) (s : State) : OutcomeAsListed i s := by
  cases i with
  | ret =>
    refine outcomeAsListed_of_row rfl exec_ret_of_empty fun used => ?_
    obtain ⟨t, completes, -⟩ := exec_ret_of_used (Nat.pos_of_ne_zero used)
    exact ⟨t, completes⟩
  | call nnn =>
    refine outcomeAsListed_of_row rfl (exec_call_of_full nnn) fun room => ?_
    obtain ⟨t, completes, -⟩ := exec_call_of_room nnn (s := s) (by omega)
    exact ⟨t, completes⟩
  | drw x y n =>
    refine outcomeAsListed_of_row rfl (fun beyond => exec_drw_of_beyond x y fun inMemory => ?_) fun inMemory => ?_
    · exact (spriteInMemory_iff s n).mp inMemory beyond
    · exact ⟨_, exec_drw_of_inMemory x y ((spriteInMemory_iff s n).mpr inMemory)⟩
  | skp x =>
    refine outcomeAsListed_of_row rfl exec_skp_of_lt fun isKey => ?_
    obtain ⟨k, number⟩ := exists_key_of_not_lt isKey
    exact ⟨_, exec_skp_of_key number⟩
  | sknp x =>
    refine outcomeAsListed_of_row rfl exec_sknp_of_lt fun isKey => ?_
    obtain ⟨k, number⟩ := exists_key_of_not_lt isKey
    exact ⟨_, exec_sknp_of_key number⟩
  | ldB x =>
    refine outcomeAsListed_of_row rfl exec_ldB_of_le fun fits => ?_
    obtain ⟨t, completes, -⟩ := exec_ldB_of_lt x (Nat.lt_of_not_le fits)
    exact ⟨t, completes⟩
  | stRegs x =>
    refine outcomeAsListed_of_row rfl exec_stRegs_of_le fun fits => ?_
    obtain ⟨t, completes, -⟩ := exec_stRegs_of_lt (Nat.lt_of_not_le fits)
    exact ⟨t, completes⟩
  | ldRegs x =>
    refine outcomeAsListed_of_row rfl exec_ldRegs_of_le fun fits => ?_
    exact ⟨_, exec_ldRegs_of_lt (Nat.lt_of_not_le fits)⟩
  | ldVxK x =>
    refine .inl ⟨rfl, ?_⟩
    cases scan : s.lowestHeld with
    | some k => exact ⟨_, exec_ldVxK_of_some x scan⟩
    | none => exact ⟨_, exec_ldVxK_of_none x scan⟩
  | _ => exact .inl ⟨rfl, _, rfl⟩

/-- A handler that completed had no cause to fault. -/
theorem oobCause_of_exec_next {i : Instr} {s t : State} (completes : exec i s = .next t) : oobCause i s = none := by
  obtain ⟨unlisted, -⟩ | ⟨c, -, faults⟩ := exec_outcome i s
  · exact unlisted
  · rw [completes] at faults
    contradiction

/-- Settles O16: of the two outcomes a handler can have, each goes with its answer of the table. -/
theorem instructionsFaultExactlyAsListed : Obligations.InstructionsFaultExactlyAsListed := by
  intro i s c
  obtain ⟨unlisted, t, completes⟩ | ⟨d, listed, faults⟩ := exec_outcome i s
  · simp [unlisted, completes]
  · simp [listed, faults]

/-- Settles O17: neither of the two outcomes is a refusal. -/
theorem instructionsCompleteUnlessListed : Obligations.InstructionsCompleteUnlessListed := by
  intro i s
  obtain ⟨unlisted, t, completes⟩ | ⟨d, listed, faults⟩ := exec_outcome i s
  · simp [completes]
  · simp [listed, faults]

/-! ## Cycles -/

/-- R201's table looks at no piece of state that the start of a cycle changes. -/
theorem oobCause_beginCycle (i : Instr) (s : State) : oobCause i s.beginCycle = oobCause i s := by
  cases i <;> rfl

/-- Settles O18: the handler's outcome from the advanced state is the cycle's. -/
theorem cycleOutcomeDecidedByInstruction : Obligations.CycleOutcomeDecidedByInstruction := by
  refine fun s fetches => ⟨fun unlisted => ?_, fun c listed => ?_⟩
  · obtain ⟨u, completes⟩ := (instructionsCompleteUnlessListed s.nextInstr s.beginCycle).1
      ((oobCause_beginCycle _ s).trans unlisted)
    exact ⟨_, step_of_exec_next fetches completes⟩
  · have faults := (instructionsFaultExactlyAsListed _ _ c).mpr ((oobCause_beginCycle s.nextInstr s).trans listed)
    exact step_of_exec_fault fetches faults

end Sys2Proof.Machine
end

section
/-! What a handler and a cycle leave unchanged (R10 to R24). `exec_frame` is the one case analysis of frames; what a
cycle keeps follows from it. -/

namespace Sys2Proof.Machine

/-! ## What the faulting instructions did when they completed -/

/-- The condition of a table row that listed no cause is false. -/
theorem not_of_row_eq_none {p : Prop} [Decidable p] {c : OobCause} (unlisted : (if p then some c else none) = none) :
    ¬ p := by
  intro h
  rw [if_pos h] at unlisted
  contradiction

theorem exec_ret_next {s t : State} (completes : exec .ret s = .next t) :
    t = { s with pc := t.pc, sp := t.sp } ∧ t.sp.val + 1 = s.sp.val ∧ s.stack[s.sp.val - 1]? = some t.pc := by
  have used := not_of_row_eq_none (oobCause_of_exec_next completes)
  obtain ⟨u, completes', rest⟩ := exec_ret_of_used (Nat.pos_of_ne_zero used)
  obtain rfl := Host.Outcome.next.inj (completes.symm.trans completes')
  exact rest

theorem exec_call_next {nnn : Addr12} {s t : State} (completes : exec (.call nnn) s = .next t) :
    t = { s with pc := t.pc, sp := t.sp, stack := t.stack } ∧ t.pc = nnn.setWidth 16 ∧ t.sp.val = s.sp.val + 1 ∧
      t.stack[s.sp.val]? = some s.pc ∧ ∀ k : Nat, k ≠ s.sp.val → t.stack[k]? = s.stack[k]? := by
  have room : ¬ s.sp.val = 16 := not_of_row_eq_none (oobCause_of_exec_next completes)
  obtain ⟨u, completes', rest⟩ := exec_call_of_room nnn (s := s) (by omega)
  obtain rfl := Host.Outcome.next.inj (completes.symm.trans completes')
  exact rest

theorem exec_drw_next {x y n : Nibble} {s t : State} (completes : exec (.drw x y n) s = .next t) :
    t = { s with disp := (s.drawn x y n).1, redraw := true }.setV vF (flagByte (s.drawn x y n).2) := by
  have inMemory := (spriteInMemory_iff s n).mpr (not_of_row_eq_none (oobCause_of_exec_next completes))
  exact Host.Outcome.next.inj (completes.symm.trans (exec_drw_of_inMemory x y inMemory))

theorem exec_skp_next {x : Nibble} {s t : State} (completes : exec (.skp x) s = .next t) :
    ∃ k : Fin 16, (s.getV x).toNat = k.val ∧ t = s.skipIf s.key[k] := by
  obtain ⟨k, number⟩ := exists_key_of_not_lt (not_of_row_eq_none (oobCause_of_exec_next completes))
  exact ⟨k, number, Host.Outcome.next.inj (completes.symm.trans (exec_skp_of_key number))⟩

theorem exec_sknp_next {x : Nibble} {s t : State} (completes : exec (.sknp x) s = .next t) :
    ∃ k : Fin 16, (s.getV x).toNat = k.val ∧ t = s.skipIf !s.key[k] := by
  obtain ⟨k, number⟩ := exists_key_of_not_lt (not_of_row_eq_none (oobCause_of_exec_next completes))
  exact ⟨k, number, Host.Outcome.next.inj (completes.symm.trans (exec_sknp_of_key number))⟩

theorem exec_ldB_next {x : Nibble} {s t : State} (completes : exec (.ldB x) s = .next t) :
    State.storeBytes (s.dataAddr 0) (decimalDigits (s.getV x)) s = .ok t :=
  complete_next.mp completes

theorem exec_stRegs_next {x : Nibble} {s t : State} (completes : exec (.stRegs x) s = .next t) :
    State.storeBytes (s.dataAddr 0) (s.firstRegs (x.toNat + 1)) s = .ok t := by
  have fits : ¬ memSize ≤ s.dataAddr x.toNat := not_of_row_eq_none (oobCause_of_exec_next completes)
  exact complete_next.mp ((if_neg fits).symm.trans completes)

theorem exec_ldRegs_next {x : Nibble} {s t : State} (completes : exec (.ldRegs x) s = .next t) :
    t = s.setFirstRegs (s.block (x.toNat + 1)) := by
  have fits := Nat.lt_of_not_le (not_of_row_eq_none (oobCause_of_exec_next completes))
  exact Host.Outcome.next.inj (completes.symm.trans (exec_ldRegs_of_lt fits))

/-- The key wait writes its destination when a key is held, and moves pc back when none is. -/
theorem exec_ldVxK_next {x : Nibble} {s t : State} (completes : exec (.ldVxK x) s = .next t) :
    (∃ b, t = s.setV x b ∧ s.anyKeyHeld) ∨ (t = { s with pc := s.pc - 2 } ∧ ¬ s.anyKeyHeld) := by
  obtain ⟨scan, noneHeld⟩ | ⟨k, scan, held, -⟩ := s.lowestHeld_spec
  · refine .inr ⟨Host.Outcome.next.inj (completes.symm.trans (exec_ldVxK_of_none x scan)), ?_⟩
    rintro ⟨k, held⟩
    exact absurd ((noneHeld k).symm.trans held) Bool.false_ne_true
  · exact .inl ⟨_, Host.Outcome.next.inj (completes.symm.trans (exec_ldVxK_of_some x scan)), k, held⟩

/-! ## The frame of a handler -/

/-- From `s` to `t` only what the instruction may write has changed. -/
def KeepsFrame (i : Instr) (s t : State) : Prop :=
  (∀ r, ¬ writesReg i r → t.getV r = s.getV r) ∧ ∀ p, p ∉ writesPart i → p.same s t

/-- A frame that lists no more than the instruction may write. -/
theorem KeepsFrame.of_changesOnly {i : Instr} {rs : List Nibble} {ps : List Part} {s t : State}
    (frame : ChangesOnly rs ps s t) (regs : ∀ r ∈ rs, writesReg i r) (parts : ∀ p ∈ ps, p ∈ writesPart i) :
    KeepsFrame i s t :=
  ⟨fun r kept => frame.1 r fun listed => kept (regs r listed), fun p kept => frame.2 p fun listed =>
    kept (parts p listed)⟩

theorem KeepsFrame.of_parts {i : Instr} {s t : State} (frame : ChangesOnly [] (writesPart i) s t) :
    KeepsFrame i s t :=
  .of_changesOnly frame (fun _ none => absurd none List.not_mem_nil) fun _ listed => listed

/-- One register, the instruction's destination. -/
theorem KeepsFrame.of_reg {i : Instr} {x : Nibble} {s t : State} (frame : ChangesOnly [x] (writesPart i) s t)
    (destination : writesReg i x) : KeepsFrame i s t :=
  .of_changesOnly frame (fun _ listed => List.mem_singleton.mp listed ▸ destination) fun _ listed => listed

/-- The destination and VF. -/
theorem KeepsFrame.of_reg_and_flag {i : Instr} {x : Nibble} {s t : State}
    (frame : ChangesOnly [x, vF] (writesPart i) s t) (listed : ∀ r, writesReg i r = (r = x ∨ r = vF)) :
    KeepsFrame i s t :=
  .of_changesOnly frame (fun r written => by rw [listed]; simpa using written) fun _ listed => listed

/-- The frame of the report that an undefined word makes. -/
theorem changesOnly_report_of_eq {s t : State} (h : t = { s with report := t.report }) :
    ChangesOnly [] [.report] s t := by
  rw [h]
  refine ⟨fun _ _ => rfl, fun p unlisted => ?_⟩
  cases p with
  | report => exact absurd (List.mem_singleton_self _) unlisted
  | mem => exact fun _ => rfl
  | _ => rfl

theorem State.changesOnly_storeBytes {a : Nat} {bs : List Byte} {s t : State}
    (stored : State.storeBytes a bs s = .ok t) : ChangesOnly [] [.mem] s t := by
  obtain ⟨-, onlyMemory, -⟩ := State.storeBytes_spec stored
  exact changesOnly_mem_of_eq onlyMemory

theorem exec_frame {i : Instr} {s t : State} (completes : exec i s = .next t) : KeepsFrame i s t := by
  cases i with
  | cls =>
    cases completes
    exact .of_parts (changesOnly_disp_redraw_of_eq rfl)
  | ret => exact .of_parts (changesOnly_pc_sp_of_eq (exec_ret_next completes).1)
  | call nnn => exact .of_parts (changesOnly_pc_sp_stack_of_eq (exec_call_next completes).1)
  | jp nnn =>
    cases completes
    exact .of_parts (s.changesOnly_jumpTo nnn)
  | seImm x kk | sneImm x kk | seReg x y | sneReg x y =>
    cases completes
    exact .of_parts (s.changesOnly_skipIf _)
  | skp x =>
    obtain ⟨k, -, rfl⟩ := exec_skp_next completes
    exact .of_parts (s.changesOnly_skipIf _)
  | sknp x =>
    obtain ⟨k, -, rfl⟩ := exec_sknp_next completes
    exact .of_parts (s.changesOnly_skipIf _)
  | ldImm x kk | addImm x kk | ldReg x y | or x y | and x y | xor x y | ldVxDt x =>
    cases completes
    exact .of_reg (s.changesOnly_setV x _) rfl
  | rnd x kk =>
    cases completes
    exact .of_reg (changesOnly_rnd s x _) rfl
  | ldVxK x =>
    obtain ⟨b, rfl, -⟩ | ⟨rfl, -⟩ := exec_ldVxK_next completes
    · exact .of_changesOnly (s.changesOnly_setV x b) (fun _ listed => List.mem_singleton.mp listed)
        fun _ none => absurd none List.not_mem_nil
    · exact .of_parts (changesOnly_pc_of_eq rfl)
  | addReg x y | sub x y | shr x y | subn x y | shl x y =>
    cases completes
    exact .of_reg_and_flag (s.changesOnly_setResultAndFlag x _ _) fun _ => rfl
  | drw x y n =>
    rw [exec_drw_next completes]
    exact .of_reg (changesOnly_drw s _ _) rfl
  | ldI nnn | addI x | ldF x =>
    cases completes
    exact .of_parts (changesOnly_index_of_eq rfl)
  | ldDtVx x =>
    cases completes
    refine .of_parts (changesOnly_timers_of_eq rfl (fun unlisted => ?_) fun _ => rfl)
    exact absurd (List.mem_singleton_self _) unlisted
  | ldStVx x =>
    cases completes
    refine .of_parts (changesOnly_timers_of_eq rfl (fun _ => rfl) fun unlisted => ?_)
    exact absurd (List.mem_singleton_self _) unlisted
  | ldB x => exact .of_parts (State.changesOnly_storeBytes (exec_ldB_next completes))
  | stRegs x => exact .of_parts (State.changesOnly_storeBytes (exec_stRegs_next completes))
  | ldRegs x =>
    rw [exec_ldRegs_next completes]
    refine ⟨fun r above => ?_, fun p _ => s.same_setFirstRegs _ p⟩
    rw [State.getV_setFirstRegs_block, if_neg fun listed => above (Nat.le_of_lt_succ listed)]
  | unimpl w =>
    cases completes
    exact .of_parts (changesOnly_report_of_eq rfl)

/-- The bytes outside the range that a store addresses. -/
theorem exec_bytes {i : Instr} {s t : State} (completes : exec i s = .next t) {a : Nat} (outside : ¬ storesAt i s a) :
    t.byteAt a = s.byteAt a := by
  cases i with
  | ldB x =>
    obtain ⟨u, completes', -, -, others⟩ :=
      exec_ldB_of_lt x (Nat.lt_of_not_le (not_of_row_eq_none (oobCause_of_exec_next completes)))
    obtain rfl := Host.Outcome.next.inj (completes.symm.trans completes')
    exact others a fun k inRange same => outside ⟨k, inRange, same⟩
  | stRegs x =>
    obtain ⟨u, completes', -, -, others⟩ :=
      exec_stRegs_of_lt (Nat.lt_of_not_le (not_of_row_eq_none (oobCause_of_exec_next completes)))
    obtain rfl := Host.Outcome.next.inj (completes.symm.trans completes')
    exact others a fun k inRange same => outside ⟨k, inRange, same⟩
  | _ => exact (exec_frame completes).2 .mem (by simp [writesPart]) a

/-- Settles O44: the frame of each handler, and the bytes besides a store's. -/
theorem instructionFrames : Obligations.InstructionFrames := by
  intro i s t completes
  obtain ⟨regs, parts⟩ := exec_frame completes
  exact ⟨regs, parts, fun _ => exec_bytes completes⟩

/-! ## What a cycle keeps -/

/-- A piece of state that neither the start of a cycle, nor the instruction, nor the timer step writes. -/
theorem step_keeps_part {s t : State} (completes : step s = .next t) {p : Part}
    (unlisted : p ∉ [Part.pc, .report, .dt, .st] ++ writesPart s.nextInstr) : p.same s t := by
  obtain ⟨-, u, execNext, rfl⟩ := step_next completes
  simp only [List.mem_append, List.mem_cons, List.not_mem_nil, or_false, not_or] at unlisted
  obtain ⟨⟨notPc, notReport, notDt, notSt⟩, notWritten⟩ := unlisted
  have started : p.same s s.beginCycle := s.changesOnly_beginCycle.2 p (by simp [notPc, notReport])
  have executed : p.same s.beginCycle u := (exec_frame execNext).2 p notWritten
  have ended : p.same u u.timerUpdate := u.changesOnly_timerUpdate.2 p (by simp [notDt, notSt])
  exact Part.same_trans (Part.same_trans started executed) ended

/-- R22, R23, R24: no handler writes the host's inputs, the fault latch or the `load_error` port. -/
theorem not_mem_writesPart_of_host {p : Part} (host : p ∈ [Part.key, .fault, .config, .loadError]) (i : Instr) :
    p ∉ [Part.pc, .report, .dt, .st] ++ writesPart i := by
  simp only [List.mem_cons, List.not_mem_nil, or_false] at host
  obtain rfl | rfl | rfl | rfl := host <;> cases i <;> simp [writesPart]

/-- R19: the display instructions set `redraw`, and no other touches it. -/
theorem exec_keeps_redraw {i : Instr} {s t : State} (completes : exec i s = .next t) (set : s.redraw = true) :
    t.redraw = true := by
  cases i with
  | cls => cases completes; rfl
  | drw x y n => rw [exec_drw_next completes]; rfl
  | _ => exact ((exec_frame completes).2 .redraw (by simp [writesPart])).trans set

/-- Settles O45: four pieces of state that no instruction lists, and `redraw`. -/
theorem cycleKeepsHostInputs : Obligations.CycleKeepsHostInputs := by
  intro s t completes
  have keeps {p : Part} (host : p ∈ [Part.key, .fault, .config, .loadError]) : p.same s t :=
    step_keeps_part completes (not_mem_writesPart_of_host host _)
  obtain ⟨⟨unlatched, -⟩, u, execNext, rfl⟩ := step_next completes
  have keepsFault : Part.fault.same s u.timerUpdate := keeps (by decide)
  refine ⟨keeps (p := .key) (by decide), keeps (p := .config) (by decide), keeps (p := .loadError) (by decide),
    keepsFault.trans unlatched, fun set => ?_⟩
  rw [State.timerUpdate_redraw]
  exact exec_keeps_redraw execNext set

end Sys2Proof.Machine
end

section
/-! Memory's canonical form (log entry 3): it is kept by every handler and cycle, and it is determined by what memory
reads. -/

namespace Sys2Proof.Machine

/-! ## Every step keeps it -/

theorem State.memOk_of_storeBytes {a : Nat} {bs : List Byte} {s t : State} (stored : State.storeBytes a bs s = .ok t)
    (canonical : s.memOk) : t.memOk := by
  obtain ⟨-, onlyMemory, -, keeps⟩ := State.storeBytes_spec stored
  rw [State.memOk, show t.config = s.config by rw [onlyMemory]]
  exact keeps canonical

/-- Two instructions store, both through `storeBytes`; the others leave the list itself alone. -/
theorem exec_keeps_memOk {i : Instr} {s t : State} (completes : exec i s = .next t) (canonical : s.memOk) :
    t.memOk := by
  cases i with
  | ldB x => exact State.memOk_of_storeBytes (exec_ldB_next completes) canonical
  | stRegs x => exact State.memOk_of_storeBytes (exec_stRegs_next completes) canonical
  | ret =>
    rw [(exec_ret_next completes).1]
    exact canonical
  | call nnn =>
    rw [(exec_call_next completes).1]
    exact canonical
  | drw x y n =>
    rw [exec_drw_next completes]
    exact canonical
  | seImm x kk | sneImm x kk | seReg x y | sneReg x y =>
    cases completes
    simpa [State.memOk] using canonical
  | skp x =>
    obtain ⟨k, -, rfl⟩ := exec_skp_next completes
    simpa [State.memOk] using canonical
  | sknp x =>
    obtain ⟨k, -, rfl⟩ := exec_sknp_next completes
    simpa [State.memOk] using canonical
  | ldVxK x =>
    obtain ⟨b, rfl, -⟩ | ⟨rfl, -⟩ := exec_ldVxK_next completes
    · exact canonical
    · exact canonical
  | ldRegs x =>
    rw [exec_ldRegs_next completes]
    exact canonical
  | _ =>
    cases completes
    exact canonical

/-- Settles O47: the start of a cycle and the timer step leave memory alone, and the handler keeps it canonical. -/
theorem memoryStaysCanonical : Obligations.MemoryStaysCanonical := by
  intro s t canonical completes
  obtain ⟨-, u, execNext, rfl⟩ := step_next completes
  have executed : u.memOk := exec_keeps_memOk execNext canonical
  rwa [State.memOk, State.timerUpdate_mem, State.timerUpdate_config]

/-! ## What memory reads determines it -/

theorem Memory.mem_of_lookup {m : Memory} {a : Nat} {v : Byte} (found : Memory.lookup a m = some v) : (a, v) ∈ m := by
  induction m with
  | nil => simp [Memory.lookup] at found
  | cons p m ih =>
    rw [Memory.lookup] at found
    split_ifs at found with here
    · obtain rfl := Option.some.inj found
      rw [← here]
      exact List.mem_cons_self
    · exact List.mem_cons_of_mem _ (ih found)

/-- A byte listed in canonical memory differs from the address's content after reset, so a read tells what is
listed. -/
theorem Memory.mem_iff_read {c : Config} {m : Memory} (canonical : Memory.wf c m) (p : Host.Cell) :
    p ∈ m ↔ Memory.read c m p.1 = p.2 ∧ p.2 ≠ c.background p.1 := by
  obtain ⟨rising, entries⟩ := canonical
  constructor
  · intro listed
    rw [Memory.read, Memory.lookup_eq_some_of_mem rising listed]
    exact ⟨rfl, (entries p listed).2⟩
  · rintro ⟨reads, differs⟩
    rw [Memory.read] at reads
    cases found : Memory.lookup p.1 m with
    | none =>
      rw [found, Option.getD_none] at reads
      exact absurd reads.symm differs
    | some v =>
      rw [found, Option.getD_some] at reads
      subst reads
      exact Memory.mem_of_lookup found

/-- Settles O48: the two lists have the same entries, and each is the rising order of its entries. -/
theorem canonicalMemoryIsUnique : Obligations.CanonicalMemoryIsUnique := by
  intro c m n mCanonical nCanonical reads
  have sameEntries (p : Host.Cell) : p ∈ m ↔ p ∈ n := by
    rw [Memory.mem_iff_read mCanonical, Memory.mem_iff_read nCanonical, reads]
  have nodup {l : Memory} (rising : l.Pairwise fun p q => p.1 < q.1) : l.Nodup :=
    rising.imp fun below same => absurd below (by rw [same]; exact Nat.lt_irrefl _)
  have perm : m.Perm n := (List.perm_ext_iff_of_nodup (nodup mCanonical.1) (nodup nCanonical.1)).mpr sameEntries
  exact perm.eq_of_pairwise (fun p q _ _ below above => absurd below (Nat.lt_asymm above)) mCanonical.1 nCanonical.1

end Sys2Proof.Machine
end

section
/-! Where pc stands after a cycle (R91), the bound that keeps it from wrapping (R12), and what a cycle reports (R190,
R203). -/

namespace Sys2Proof.Machine

/-! ## pc after a cycle (R91) -/

theorem pc_add_two_add_two (s : State) : s.beginCycle.pc + 2 = s.pc + 4 := by
  rw [State.beginCycle_pc, BitVec.add_assoc]
  rfl

/-- A skip moves pc 4 on from the start of the cycle, or 2. -/
theorem State.skipIf_beginCycle_pc (s : State) (taken : Bool) :
    (s.beginCycle.skipIf taken).pc = if taken then s.pc + 4 else s.pc + 2 := by
  rw [State.skipIf_pc, pc_add_two_add_two, State.beginCycle_pc]

theorem exec_pcAfterCycle {i : Instr} {s u : State} (completes : exec i s.beginCycle = .next u) :
    pcAfterCycle i s u.pc := by
  cases i with
  | jp nnn =>
    cases completes
    rfl
  | call nnn =>
    obtain ⟨-, jumped, -⟩ := exec_call_next completes
    exact jumped
  | ret =>
    obtain ⟨-, -, taken⟩ := exec_ret_next completes
    exact taken
  | ldVxK x =>
    obtain ⟨b, rfl, held⟩ | ⟨rfl, noneHeld⟩ := exec_ldVxK_next completes
    · exact ⟨fun _ => rfl, fun noneHeld => absurd held noneHeld⟩
    · exact ⟨fun held => absurd held noneHeld, fun _ => BitVec.add_sub_cancel s.pc 2⟩
  | seImm x kk | sneImm x kk | seReg x y | sneReg x y =>
    cases completes
    exact s.skipIf_beginCycle_pc _
  | skp x =>
    obtain ⟨k, number, rfl⟩ := exec_skp_next completes
    have taken : skipTaken (.skp x) s = s.key[k] := by
      rw [State.beginCycle_getV] at number
      simp [skipTaken, number]
    exact (s.skipIf_beginCycle_pc _).trans (by rw [taken]; rfl)
  | sknp x =>
    obtain ⟨k, number, rfl⟩ := exec_sknp_next completes
    have taken : skipTaken (.sknp x) s = !s.key[k] := by
      rw [State.beginCycle_getV] at number
      simp [skipTaken, number]
    exact (s.skipIf_beginCycle_pc _).trans (by rw [taken]; rfl)
  | _ => exact (exec_frame completes).2 .pc (by simp [writesPart])

/-- Settles O15: the timer step leaves pc where the handler put it. -/
theorem pcAfterEveryCycle : Obligations.PcAfterEveryCycle := by
  intro s t completes
  obtain ⟨-, u, execNext, rfl⟩ := step_next completes
  rw [State.timerUpdate_pc]
  exact exec_pcAfterCycle execNext

/-! ## The bound on pc (R12) -/

/-- A 12-bit address is far below the bound. -/
theorem addr12_toNat_le (nnn : Addr12) : (nnn.setWidth 16).toNat ≤ 4096 := by
  rw [BitVec.toNat_setWidth_of_le (by decide)]
  exact nnn.isLt.le

/-- pc after a cycle that could fetch, from a stack whose entries are at most 4096. -/
theorem pcAfterCycle_le {i : Instr} {s : State} {p : Word} (inRange : s.pc.toNat ≤ 4094)
    (entries : ∀ k : Fin 16, s.stack[k].toNat ≤ 4096) (after : pcAfterCycle i s p) : p.toNat ≤ 4098 := by
  have twoOn : (s.pc + 2).toNat ≤ 4098 := by bv_omega
  have fourOn : (s.pc + 4).toNat ≤ 4098 := by bv_omega
  cases i with
  | jp nnn | call nnn =>
    rw [show p = nnn.setWidth 16 from after]
    exact (addr12_toNat_le nnn).trans (by decide)
  | ret =>
    obtain ⟨inStack, rfl⟩ := Vector.getElem?_eq_some_iff.mp after
    exact (entries ⟨_, inStack⟩).trans (by decide)
  | ldVxK x =>
    obtain ⟨whenHeld, whenNot⟩ := after
    by_cases held : s.anyKeyHeld
    · rwa [whenHeld held]
    · rw [whenNot held]; omega
  | seImm x kk | sneImm x kk | seReg x y | sneReg x y | skp x | sknp x =>
    rw [show p = if skipTaken _ s then s.pc + 4 else s.pc + 2 from after]
    split_ifs
    · exact fourOn
    · exact twoOn
  | _ =>
    rw [show p = s.pc + 2 from after]
    exact twoOn

/-- `CALL` alone writes the stack, and what it pushes is pc. -/
theorem exec_keeps_entries {i : Instr} {s t : State} (completes : exec i s = .next t) (pc : s.pc.toNat ≤ 4096)
    (entries : ∀ k : Fin 16, s.stack[k].toNat ≤ 4096) (k : Fin 16) : t.stack[k].toNat ≤ 4096 := by
  cases i with
  | call nnn =>
    obtain ⟨-, -, -, stored, others⟩ := exec_call_next completes
    by_cases top : k.val = s.sp.val
    · rw [← top] at stored
      obtain ⟨_, isPc⟩ := Vector.getElem?_eq_some_iff.mp stored
      rw [Fin.getElem_fin, isPc]
      exact pc
    · have kept := others k.val top
      rw [Vector.getElem?_eq_getElem k.isLt, Vector.getElem?_eq_getElem k.isLt] at kept
      rw [Fin.getElem_fin, Option.some.inj kept]
      exact entries k
  | _ =>
    have kept : t.stack = s.stack := (exec_frame completes).2 .stack (by simp [writesPart])
    rw [kept]
    exact entries k

/-- Settles O49: a cycle that completes started at 4094 or below, and goes on by at most 4 from there, to a 12-bit
address or to a stack entry; what it pushes is 2 above its start. -/
theorem pcNeverWraps : Obligations.PcNeverWraps := by
  intro s t ⟨_, entries⟩ completes
  have after := pcAfterEveryCycle s t completes
  obtain ⟨⟨-, inRange⟩, u, execNext, rfl⟩ := step_next completes
  refine ⟨pcAfterCycle_le inRange entries after, ?_⟩
  have returnAddr : s.beginCycle.pc.toNat ≤ 4096 := by rw [State.beginCycle_pc]; bv_omega
  rw [State.timerUpdate_stack]
  exact exec_keeps_entries execNext returnAddr entries

/-! ## Reports (R190, R203) -/

/-- The state after the handler of an undefined word. -/
def State.reportWord (s : State) (w : Word) : State := { s with report := some ⟨w, s.pc - 2⟩ }

theorem exec_unimpl (w : Word) (s : State) : exec (.unimpl w) s = .next (s.reportWord w) := rfl

theorem State.changesOnly_reportWord (s : State) (w : Word) : ChangesOnly [] [.report] s (s.reportWord w) :=
  changesOnly_report_of_eq rfl

theorem ChangesOnly.mono {rs rs' : List Nibble} {ps ps' : List Part} {s t : State} (frame : ChangesOnly rs ps s t)
    (regs : rs ⊆ rs') (parts : ps ⊆ ps') : ChangesOnly rs' ps' s t :=
  ⟨fun r unlisted => frame.1 r fun listed => unlisted (regs listed),
    fun p unlisted => frame.2 p fun listed => unlisted (parts listed)⟩

/-- The timer step looks at the timers and the policy alone. -/
theorem State.timerUpdate_timers_congr {s t : State} (config : t.config = s.config) (dt : t.dt = s.dt)
    (st : t.st = s.st) : t.timerUpdate.dt = s.timerUpdate.dt ∧ t.timerUpdate.st = s.timerUpdate.st := by
  cases policy : s.config.timerPolicy with
  | sharedSlotPerCycle =>
    rw [State.timerUpdate_eq_sharedSlot policy, State.timerUpdate_eq_sharedSlot (by rwa [config])]
    simp [dt, st]
  | independentTick =>
    rw [State.timerUpdate_of_independentTick policy, State.timerUpdate_of_independentTick (by rwa [config])]
    exact ⟨dt, st⟩

theorem exec_keeps_report {i : Instr} {s t : State} (completes : exec i s = .next t) (defined : ∀ w, i ≠ .unimpl w) :
    t.report = s.report := by
  cases i with
  | unimpl w => exact absurd rfl (defined w)
  | _ => exact (exec_frame completes).2 .report (by simp [writesPart])

/-- A defined word decodes to no UNIMPL, whatever word that might carry. -/
theorem decodeWord_ne_unimpl {w : Word} (defined : isUndefinedWord w = false) (v : Word) :
    decodeWord w ≠ .unimpl v := by
  intro isUnimpl
  obtain ⟨sameWord, formed, -⟩ := decodeWord_represents w
  rw [isUnimpl] at sameWord formed
  obtain rfl : v = w := sameWord
  exact absurd (defined.symm.trans formed) Bool.false_ne_true

/-- Settles O43: UNIMPL writes the report and nothing else, and no other instruction writes it. -/
theorem undefinedWordIsReportedNoOp : Obligations.UndefinedWordIsReportedNoOp := by
  refine ⟨fun w s undefined => ?handler, fun s fetches undefined => ?cycle, fun s t defined completes => ?silent⟩
  case handler =>
    rw [decodeWord_of_isUndefinedWord undefined]
    exact ⟨_, exec_unimpl w s, rfl, s.changesOnly_reportWord w⟩
  case cycle =>
    have next : s.nextInstr = .unimpl (s.wordAt s.pc.toNat) := decodeWord_of_isUndefinedWord undefined
    have completes := step_of_exec_next fetches (by rw [next, exec_unimpl])
    obtain ⟨dt, st⟩ :=
      State.timerUpdate_timers_congr (s := s) (t := s.beginCycle.reportWord (s.wordAt s.pc.toNat)) rfl rfl rfl
    refine ⟨_, completes, ?_, ?_, dt, st, ?_⟩
    · rw [State.timerUpdate_pc]; rfl
    · rw [State.timerUpdate_report, State.reportWord, State.beginCycle_pc, BitVec.add_sub_cancel]
    · exact ((s.changesOnly_beginCycle.trans (s.beginCycle.changesOnly_reportWord _)).trans
        (State.changesOnly_timerUpdate _)).mono (by simp) (by simp)
  case silent =>
    obtain ⟨-, u, execNext, rfl⟩ := step_next completes
    rw [State.timerUpdate_report, exec_keeps_report execNext (decodeWord_ne_unimpl defined), State.beginCycle_report]

end Sys2Proof.Machine
end

section
/-! Noninterference (R19, R203, R260): no handler and no cycle looks at `redraw`, at the report port or at the
`load_error` port. Two runs that differ only there stay in step: `exec_withPorts` and `step_withOutputs`. -/

namespace Sys2Proof.Machine

/-! ## States that differ in the outputs -/

/-- The same state but for `redraw` and the `load_error` port. -/
def State.withPorts (b : Bool) (e : LoadStatus) (s : State) : State := { s with redraw := b, loadError := e }

/-! ## Operations -/

theorem State.skipIf_withPorts (b : Bool) (e : LoadStatus) (s : State) (taken : Bool) :
    (s.withPorts b e).skipIf taken = (s.skipIf taken).withPorts b e := by cases taken <;> rfl

theorem State.pushPc_withPorts (b : Bool) (e : LoadStatus) (s : State) :
    (s.withPorts b e).pushPc = s.pushPc.map (State.withPorts b e) := by
  unfold State.pushPc
  by_cases room : s.sp.val < 16
  · rw [dif_pos room, dif_pos (by exact room)]; rfl
  · rw [dif_neg room, dif_neg (by exact room)]; rfl

theorem State.popPc_withPorts (b : Bool) (e : LoadStatus) (s : State) :
    (s.withPorts b e).popPc = s.popPc.map (State.withPorts b e) := by
  unfold State.popPc
  by_cases used : 0 < s.sp.val
  · rw [dif_pos used, dif_pos (by exact used)]; rfl
  · rw [dif_neg used, dif_neg (by exact used)]; rfl

theorem State.memWrite_withPorts (b : Bool) (e : LoadStatus) (s : State) (a : Nat) (v : Byte) :
    (s.withPorts b e).memWrite a v = (s.memWrite a v).map (State.withPorts b e) := by
  by_cases inside : a < memSize
  · rw [State.memWrite_of_lt inside, State.memWrite_of_lt inside]; rfl
  · have beyond := Nat.le_of_not_lt inside
    rw [State.memWrite_of_le beyond, State.memWrite_of_le beyond]; rfl

theorem State.storeBytes_withPorts (b : Bool) (e : LoadStatus) (a : Nat) (bs : List Byte) (s : State) :
    State.storeBytes a bs (s.withPorts b e) = (State.storeBytes a bs s).map (State.withPorts b e) := by
  induction bs generalizing a s with
  | nil => rfl
  | cons v bs ih =>
    rw [State.storeBytes, State.storeBytes, State.memWrite_withPorts]
    cases s.memWrite a v with
    | error c => rfl
    | ok t => exact ih (a + 1) t

theorem State.timerUpdate_withPorts (b : Bool) (e : LoadStatus) (s : State) :
    (s.withPorts b e).timerUpdate = s.timerUpdate.withPorts b e := by
  cases policy : s.config.timerPolicy with
  | sharedSlotPerCycle =>
    rw [State.timerUpdate_eq_sharedSlot policy, State.timerUpdate_eq_sharedSlot (by exact policy)]
    unfold State.sharedSlot
    by_cases sound : s.st ≠ 0
    · rw [if_pos sound, if_pos (by exact sound)]; rfl
    · rw [if_neg sound, if_neg (by exact sound)]
      by_cases delay : s.dt ≠ 0
      · rw [if_pos delay, if_pos (by exact delay)]; rfl
      · rw [if_neg delay, if_neg (by exact delay)]
  | independentTick =>
    rw [State.timerUpdate_of_independentTick policy, State.timerUpdate_of_independentTick (by exact policy)]

/-! ## Handlers -/

/-- A call is a push and a jump. -/
theorem exec_call_next_iff {nnn : Addr12} {s t : State} :
    exec (.call nnn) s = .next t ↔ ∃ u, s.pushPc = .ok u ∧ t = u.jumpTo nnn := by
  rw [exec, execCall]
  cases s.pushPc <;> simp [raiseOutOfBounds, eq_comm]

/-- A handler that completes does the same from the other state. The display instructions set `redraw` in both; the
others leave it. -/
theorem exec_withPorts_next (b : Bool) (e : LoadStatus) {i : Instr} {s t : State} (completes : exec i s = .next t) :
    ∃ b', exec i (s.withPorts b e) = .next (t.withPorts b' e) := by
  cases i with
  | cls =>
    cases completes
    exact ⟨true, rfl⟩
  | drw x y n =>
    have inMemory := (spriteInMemory_iff s n).mpr (not_of_row_eq_none (oobCause_of_exec_next completes))
    obtain rfl := exec_drw_next completes
    exact ⟨true, exec_drw_of_inMemory x y (s := s.withPorts b e) inMemory⟩
  | ret =>
    have popped : s.popPc = .ok t := complete_next.mp completes
    exact ⟨b, complete_next.mpr (by rw [State.popPc_withPorts, popped]; rfl)⟩
  | call nnn =>
    obtain ⟨u, pushed, rfl⟩ := exec_call_next_iff.mp completes
    exact ⟨b, exec_call_next_iff.mpr ⟨u.withPorts b e, by rw [State.pushPc_withPorts, pushed]; rfl, rfl⟩⟩
  | seImm x kk | sneImm x kk | seReg x y | sneReg x y =>
    cases completes
    exact ⟨b, congrArg Host.Outcome.next (s.skipIf_withPorts b e _)⟩
  | skp x =>
    obtain ⟨k, number, rfl⟩ := exec_skp_next completes
    exact ⟨b, (exec_skp_of_key (s := s.withPorts b e) number).trans
      (congrArg Host.Outcome.next (s.skipIf_withPorts b e _))⟩
  | sknp x =>
    obtain ⟨k, number, rfl⟩ := exec_sknp_next completes
    exact ⟨b, (exec_sknp_of_key (s := s.withPorts b e) number).trans
      (congrArg Host.Outcome.next (s.skipIf_withPorts b e _))⟩
  | ldVxK x =>
    cases scan : s.lowestHeld with
    | some k =>
      obtain rfl := Host.Outcome.next.inj (completes.symm.trans (exec_ldVxK_of_some x scan))
      exact ⟨b, exec_ldVxK_of_some x (s := s.withPorts b e) scan⟩
    | none =>
      obtain rfl := Host.Outcome.next.inj (completes.symm.trans (exec_ldVxK_of_none x scan))
      exact ⟨b, exec_ldVxK_of_none x (s := s.withPorts b e) scan⟩
  | ldB x =>
    have stored := (State.storeBytes_withPorts b e _ _ s).trans (congrArg _ (exec_ldB_next completes))
    exact ⟨b, complete_next.mpr stored⟩
  | stRegs x =>
    have fits : ¬ memSize ≤ s.dataAddr x.toNat := not_of_row_eq_none (oobCause_of_exec_next completes)
    have stored := (State.storeBytes_withPorts b e _ _ s).trans (congrArg _ (exec_stRegs_next completes))
    exact ⟨b, (if_neg fits).trans (complete_next.mpr stored)⟩
  | ldRegs x =>
    have fits := Nat.lt_of_not_le (not_of_row_eq_none (oobCause_of_exec_next completes))
    obtain rfl := exec_ldRegs_next completes
    exact ⟨b, exec_ldRegs_of_lt (s := s.withPorts b e) fits⟩
  | _ =>
    cases completes
    exact ⟨b, rfl⟩

/-- R201's table looks at neither port. -/
theorem oobCause_withPorts (b : Bool) (e : LoadStatus) (i : Instr) (s : State) :
    oobCause i (s.withPorts b e) = oobCause i s := by
  cases i <;> rfl

/-! ## Cycles -/

/-- The same state but for all three outputs. -/
def State.withOutputs (b : Bool) (p : Option Report) (e : LoadStatus) (s : State) : State :=
  { s with redraw := b, report := p, loadError := e }

theorem step_withOutputs_next (b : Bool) (p : Option Report) (e : LoadStatus) {s t : State}
    (completes : step s = .next t) : ∃ b', step (s.withOutputs b p e) = .next (t.withPorts b' e) := by
  obtain ⟨fetches, u, execNext, rfl⟩ := step_next completes
  obtain ⟨b', execNext'⟩ := exec_withPorts_next b e execNext
  exact ⟨b', (step_of_exec_next (s := s.withOutputs b p e) fetches execNext').trans
    (congrArg Host.Outcome.next (u.timerUpdate_withPorts b' e))⟩

/-- A cycle ends without a next state for one of three reasons, none of which is in an output: the latch, the bound on
pc, or the cause of the fetched instruction. -/
theorem step_withOutputs_of_no_next (b : Bool) (p : Option Report) (e : LoadStatus) {s : State}
    (stops : ∀ t, step s ≠ .next t) : step (s.withOutputs b p e) = step s := by
  cases latch : s.fault with
  | some c => rw [step_of_latched latch, step_of_latched (s := s.withOutputs b p e) latch]
  | none =>
    by_cases inRange : s.pc.toNat ≤ 4094
    · have fetches : s.canFetch := ⟨latch, inRange⟩
      obtain ⟨complete, fault⟩ := cycleOutcomeDecidedByInstruction s fetches
      obtain ⟨-, fault'⟩ := cycleOutcomeDecidedByInstruction (s.withOutputs b p e) fetches
      cases cause : oobCause s.nextInstr s with
      | none =>
        obtain ⟨t, completes⟩ := complete cause
        exact absurd completes (stops t)
      | some c => rw [fault c cause, fault' c ((oobCause_withPorts b e _ _).trans cause)]
    · have beyond := Nat.lt_of_not_le inRange
      rw [step_of_fetchWord_error latch (State.fetchWord_of_lt beyond),
        step_of_fetchWord_error (s := s.withOutputs b p e) latch (State.fetchWord_of_lt (by exact beyond))]

/-- Settles O46: a completed cycle goes the same way, and so does one that stops. -/
theorem outputsDoNotInfluenceCycle : Obligations.OutputsDoNotInfluenceCycle := by
  refine fun s b p e => ⟨fun t completes => step_withOutputs_next b p e completes, fun f faults => ?_,
    fun r refuses => ?_⟩
  · exact (step_withOutputs_of_no_next b p e (by simp [faults])).trans faults
  · exact (step_withOutputs_of_no_next b p e (by simp [refuses])).trans refuses

end Sys2Proof.Machine
end

section
/-! The host's moves (R263 to R271) and the system of core and host (R92, R262). A host move is the reset, a load, or a
write of ports and timers alone (`State.hostMove_some`); the statements about every move go by these classes. -/

namespace Sys2Proof.Machine

/-! ## Reset (R26, R230) -/

/-- A state fresh from reset, by construction or by the host: only the draw counter and the `load_error` port are
open. -/
def State.isReset (c : Config) (t : State) : Prop :=
  ∃ (d : Nat) (e : LoadStatus), t = { State.resetWith c with draws := d, loadError := e }

theorem State.isReset_resetWith (c : Config) : (State.resetWith c).isReset c := ⟨0, .ok, rfl⟩

theorem State.isReset_hostReset (s : State) : s.hostReset.isReset s.config := ⟨s.draws, s.loadError, rfl⟩

theorem background_font (c : Config) (k : Fin 80) : c.background (0x050 + k.val) = c.font[k] := by
  have inFont : fontBase ≤ 0x050 + k.val ∧ 0x050 + k.val < fontBase + 80 := by unfold fontBase; omega
  rw [Config.background, dif_pos inFont]
  simp [fontBase]

theorem background_of_not_font (c : Config) {a : Nat} (outside : a < 0x050 ∨ 0x0A0 ≤ a) : c.background a = 0 := by
  rw [Config.background, dif_neg]
  unfold fontBase
  omega

/-- Settles O54: each value is read off the one description that both resets share. -/
theorem resetValues : Obligations.ResetValues := by
  intro c s t listed
  have fresh : t.isReset c := by
    simp only [List.mem_cons, List.not_mem_nil, or_false] at listed
    obtain rfl | rfl := listed
    · exact State.isReset_resetWith c
    · exact State.isReset_hostReset _
  obtain ⟨d, e, rfl⟩ := fresh
  refine ⟨fun r => Vector.getElem_replicate _, rfl, rfl, rfl, fun k => Vector.getElem_replicate _, rfl, rfl,
    fun a below => ?low, fun k => background_font c k, fun a above => ?high,
    State.displayPort_of_disp_eq_replicate rfl, rfl, fun k => Vector.getElem_replicate _, rfl, rfl⟩
  case low => exact background_of_not_font c (.inl below)
  case high => exact background_of_not_font c (.inr above)

theorem State.pcBounded_of_isReset {c : Config} {t : State} (fresh : t.isReset c) : t.pcBounded := by
  obtain ⟨d, e, rfl⟩ := fresh
  have entries (k : Fin 16) : (Vector.replicate 16 (0 : Word))[k] = 0 := Vector.getElem_replicate _
  exact ⟨show (0x200#16).toNat ≤ 4098 by decide, fun k => (congrArg BitVec.toNat (entries k)).trans_le (Nat.zero_le _)⟩

theorem State.systemOk_of_isReset {c : Config} {t : State} (fresh : t.isReset c) : t.systemOk := by
  refine ⟨?_, fun _ => State.pcBounded_of_isReset fresh⟩
  obtain ⟨d, e, rfl⟩ := fresh
  exact Memory.wf_nil c

/-- Settles O53: the memory list is empty, and pc and the stack are far below their bounds. -/
theorem resetMeetsInvariants : Obligations.ResetMeetsInvariants := fun c =>
  have ok := State.systemOk_of_isReset (State.isReset_resetWith c)
  ⟨ok, ok.1, State.pcBounded_of_isReset (State.isReset_resetWith c), rfl⟩

/-! ## Load (R264) -/

theorem State.load_of_long {bytes : List Byte} (s : State) (long : maxProgram < bytes.length) :
    s.load bytes = { s with loadError := .capacityExceeded } := if_pos long

theorem State.load_of_fits {bytes : List Byte} (s : State) (fits : bytes.length ≤ maxProgram) :
    s.load bytes = { State.putBytes programBase bytes s with loadError := .ok } := if_neg (Nat.not_lt.mpr fits)

theorem State.loadError_load (bytes : List Byte) (s : State) :
    (s.load bytes).loadError = if maxProgram < bytes.length then .capacityExceeded else .ok := by
  unfold State.load
  split_ifs <;> rfl

/-- A load writes memory and its port. -/
theorem State.load_eq (bytes : List Byte) (s : State) :
    s.load bytes = { s with mem := (s.load bytes).mem, loadError := (s.load bytes).loadError } := by
  by_cases long : maxProgram < bytes.length
  · rw [State.load_of_long s long]
  · obtain ⟨onlyMemory, -⟩ := State.putBytes_spec programBase bytes s
    rw [State.load_of_fits s (Nat.le_of_not_lt long), onlyMemory]

theorem State.memOk_load {s : State} (bytes : List Byte) (canonical : s.memOk) : (s.load bytes).memOk := by
  by_cases long : maxProgram < bytes.length
  · rw [State.load_of_long s long]
    exact canonical
  · obtain ⟨-, -, keeps⟩ := State.putBytes_spec programBase bytes s
    have config : (s.load bytes).config = s.config := by rw [State.load_eq]
    have mem : (s.load bytes).mem = (State.putBytes programBase bytes s).mem := by
      rw [State.load_of_fits s (Nat.le_of_not_lt long)]
    have fits : programBase + bytes.length ≤ memSize := by
      unfold maxProgram at long
      unfold programBase memSize
      omega
    rw [State.memOk, config, mem]
    exact keeps fits canonical

theorem changesOnly_loadError_of_eq {s t : State} (h : t = { s with loadError := t.loadError }) :
    ChangesOnly [] [.loadError] s t := by
  rw [h]
  refine ⟨fun _ _ => rfl, fun p unlisted => ?_⟩
  cases p with
  | loadError => exact absurd (List.mem_singleton_self _) unlisted
  | mem => exact fun _ => rfl
  | _ => rfl

/-- Settles O57: an image that fits is copied by `putBytes`, one that does not changes the port alone. -/
theorem loadCopiesImage : Obligations.LoadCopiesImage := by
  refine fun bytes s => ⟨fun long => ?refused, fun fits => ?copied⟩
  case refused =>
    rw [State.load_of_long s long]
    exact ⟨rfl, changesOnly_loadError_of_eq rfl⟩
  case copied =>
    obtain ⟨onlyMemory, read, -⟩ := State.putBytes_spec programBase bytes s
    rw [State.load_of_fits s fits]
    have readLoaded (i : Nat) : { State.putBytes programBase bytes s with loadError := .ok }.byteAt i =
        if programBase ≤ i then (bytes[i - programBase]?).getD (s.byteAt i) else s.byteAt i := read i
    refine ⟨rfl, fun k inImage => ?_, fun a outside => ?_, ?_⟩
    · rw [readLoaded, if_pos (Nat.le_add_right _ k), Nat.add_sub_cancel_left, List.getElem?_eq_getElem inImage,
        Option.getD_some]
    · rw [readLoaded]
      split_ifs with above
      · unfold programBase at above ⊢
        rw [List.getElem?_eq_none (by omega), Option.getD_none]
      · rfl
    · exact (changesOnly_mem_of_eq onlyMemory).trans (changesOnly_loadError_of_eq rfl)

/-! ## The other host moves -/

theorem State.timerTick_some {s t : State} (ticks : s.timerTick = some t) : t = s.tickBoth := by
  unfold State.timerTick at ticks
  split at ticks
  · exact (Option.some.inj ticks).symm
  · contradiction

/-- Everything a host move can do: reset, load, or write the redraw flag, the key latch and the timers. -/
theorem State.hostMove_some {s t : State} {m : HostMove} (moves : s.hostMove m = some t) :
    t = s.hostReset ∨ (∃ bytes, m = .load bytes ∧ t = s.load bytes) ∨
      t = { s with redraw := t.redraw, key := t.key, dt := t.dt, st := t.st } := by
  cases m with
  | reset => exact .inl (Option.some.inj moves).symm
  | load bytes => exact .inr (.inl ⟨bytes, rfl, (Option.some.inj moves).symm⟩)
  | timerTick =>
    obtain rfl := State.timerTick_some moves
    exact .inr (.inr rfl)
  | writeKeys keys | writeKey k held | redrawAck =>
    obtain rfl := Option.some.inj moves
    exact .inr (.inr rfl)

theorem State.changesOnly_redrawAck (s : State) : ChangesOnly [] [.redraw] s s.redrawAck := by
  refine ⟨fun _ _ => rfl, fun p unlisted => ?_⟩
  cases p with
  | redraw => exact absurd (List.mem_singleton_self _) unlisted
  | mem => exact fun _ => rfl
  | _ => rfl

theorem State.changesOnly_writeKey (s : State) (k : Nibble) (held : Bool) :
    ChangesOnly [] [.key] s (s.writeKey k held) := by
  refine ⟨fun _ _ => rfl, fun p unlisted => ?_⟩
  cases p with
  | key => exact absurd (List.mem_singleton_self _) unlisted
  | mem => exact fun _ => rfl
  | _ => rfl

theorem State.soundActive_iff (s : State) : s.soundActive = true ↔ 0 < s.st.toNat := by
  rw [State.soundActive, bne_iff_ne]
  bv_omega

/-- Settles O59: each of the three is one field of the state. -/
theorem hostPorts : Obligations.HostPorts := by
  refine fun s k held => ⟨⟨rfl, s.changesOnly_redrawAck⟩, s.soundActive_iff, ?written,
    fun j other => Vector.getElem?_set_ne k.isLt other.symm, s.changesOnly_writeKey k held⟩
  case written => exact Vector.getElem?_set_self k.isLt

/-! ## The system's invariants -/

/-- A host move that neither resets nor loads writes nothing that the invariant speaks of. -/
theorem State.systemOk_of_ports {s t : State}
    (ports : t = { s with redraw := t.redraw, key := t.key, dt := t.dt, st := t.st }) (ok : s.systemOk) : t.systemOk := by
  rw [ports]
  exact ok

theorem State.systemOk_load {s : State} (bytes : List Byte) (ok : s.systemOk) : (s.load bytes).systemOk := by
  refine ⟨State.memOk_load bytes ok.1, ?_⟩
  rw [State.load_eq]
  exact ok.2

/-- Settles O50: a completed cycle keeps both invariants, a fault leaves only memory to speak of, and of the host's
moves the reset starts afresh and only the load writes memory. -/
theorem systemMovesKeepInvariant : Obligations.SystemMovesKeepInvariant := by
  rintro s t ok (completes | ⟨-, latched, -, -, -, -, canonical⟩ | ⟨m, moves⟩)
  case cycle =>
    obtain ⟨⟨unlatched, -⟩, -⟩ := step_next completes
    exact ⟨memoryStaysCanonical s t ok.1 completes, fun _ => pcNeverWraps s t (ok.2 unlatched) completes⟩
  case fault => exact ⟨canonical, fun unlatched => absurd (latched.symm.trans unlatched) (Option.some_ne_none _)⟩
  case host =>
    obtain rfl | ⟨bytes, -, rfl⟩ | ports := State.hostMove_some moves
    · exact State.systemOk_of_isReset s.isReset_hostReset
    · exact State.systemOk_load bytes ok
    · exact State.systemOk_of_ports ports ok

/-- A cycle that completes leaves no fault. -/
theorem fault_of_step_next {s t : State} (completes : step s = .next t) : t.fault = none := by
  obtain ⟨-, -, -, unlatched, -⟩ := cycleKeepsHostInputs s t completes
  exact unlatched

/-- Settles O51: a completed cycle leaves no fault, a faulting one no report, the reset neither; the other host moves
leave both ports as they were. -/
theorem faultAndReportExcludeEachOther : Obligations.FaultAndReportExcludeEachOther := by
  refine ⟨fun c latched => absurd rfl latched, ?_⟩
  rintro s t exclusive (completes | ⟨-, -, -, -, silent, -⟩ | ⟨m, moves⟩)
  case cycle => exact fun latched => absurd (fault_of_step_next completes) latched
  case fault => exact fun _ => silent
  case host =>
    obtain rfl | ⟨bytes, -, rfl⟩ | ports := State.hostMove_some moves
    · exact fun latched => absurd rfl latched
    · rw [State.load_eq]
      exact exclusive
    · rw [ports]
      exact exclusive

/-- Settles O55: a latched core takes no step, so the move is the host's; only the reset writes the latch. -/
theorem latchClearedOnlyByReset : Obligations.LatchClearedOnlyByReset := by
  rintro s t c latched (completes | ⟨faults, -⟩ | ⟨m, moves⟩)
  case cycle => simp [step_of_latched latched] at completes
  case fault => simp [step_of_latched latched] at faults
  case host =>
    obtain rfl | ⟨bytes, -, rfl⟩ | ports := State.hostMove_some moves
    · exact .inr rfl
    · rw [State.load_eq]
      exact .inl latched
    · rw [ports]
      exact .inl latched

/-- Settles O58: the port is written by the load alone. -/
theorem loadErrorPortShowsLastLoad : Obligations.LoadErrorPortShowsLastLoad := by
  refine ⟨fun c => rfl, fun s => ⟨fun bytes => ⟨s.load bytes, rfl, s.loadError_load bytes⟩, ?_⟩⟩
  rintro t (completes | ⟨-, -, -, -, -, kept, -⟩ | ⟨m, moves⟩)
  case cycle =>
    obtain ⟨-, -, kept, -⟩ := cycleKeepsHostInputs s t completes
    exact .inr kept
  case fault => exact .inr kept
  case host =>
    obtain rfl | ⟨bytes, rfl, -⟩ | ports := State.hostMove_some moves
    · exact .inr rfl
    · exact .inl ⟨bytes, moves⟩
    · rw [ports]
      exact .inr rfl

/-- Settles O52: the cycle has no next state, so a move that is not the host's is this fault; and the state with the
latch set and the report cleared is one that it may leave. -/
theorem faultingCycleShowsFaultOnly : Obligations.FaultingCycleShowsFaultOnly := by
  refine fun s c faults => ⟨?_, fun canonical => ?_⟩
  · rintro t (completes | ⟨faults', latched, -, -, silent, -⟩ | ⟨m, moves⟩)
    case cycle => simp [faults] at completes
    case fault =>
      obtain rfl : c = _ := by simpa [faults] using faults'
      exact .inr ⟨latched, silent⟩
    case host => exact .inl ⟨m, moves⟩
  · have left : FaultedFrom s c { s with fault := some c, report := none } := ⟨rfl, rfl, rfl, rfl, rfl, canonical⟩
    exact ⟨_, .fault faults left, rfl, rfl⟩

/-! ## The end of a run (R248) -/

/-- One cycle of a parked machine. -/
theorem step_of_parkedAt {a : Addr12} {s : State} (parked : s.parkedAt a) :
    ∃ t, step s = .next t ∧ t.parkedAt a ∧ ChangesOnly [] [.dt, .st, .report] s t := by
  obtain ⟨unlatched, atA, inRange, jump⟩ := parked
  have pc : s.pc.toNat = a.toNat := by rw [atA, BitVec.toNat_setWidth_of_le (by decide)]
  have next : s.nextInstr = .jp a := by
    rw [State.nextInstr, pc, jump]
    exact decodeWord_jp a
  have fetches : s.canFetch := ⟨unlatched, by rwa [pc]⟩
  have completes := step_of_exec_next fetches (by rw [next, exec_jp])
  refine ⟨_, completes, ⟨?_, ?_, inRange, ?_⟩, fun r _ => ?_, fun p unlisted => ?_⟩
  · rw [State.timerUpdate_fault, State.jumpTo_fault, State.beginCycle_fault, unlatched]
  · rw [State.timerUpdate_pc, State.jumpTo_pc]
  · simpa [State.wordAt] using jump
  · simp
  · cases p with
    | dt | st | report => simp at unlisted
    | pc => simp [Part.same, atA]
    | _ => simp [Part.same]

theorem core_run_succ {k : Nat} {s t : State} (completes : step s = .next t) :
    Sys2Proof.core.run (k + 1) s = Sys2Proof.core.run k t := by
  have coreStep : Sys2Proof.core.step s = .next t := completes
  simp only [Host.Core.run, coreStep]

/-- Settles O56, by induction on the number of cycles: each leaves the machine parked. -/
theorem parkedStaysParked : Obligations.ParkedStaysParked := by
  intro a s parked k
  induction k generalizing s with
  | zero => exact ⟨s, rfl, parked, fun _ _ => rfl, fun p _ => by cases p <;> simp [Part.same]⟩
  | succ k ih =>
    obtain ⟨t, completes, stillParked, first⟩ := step_of_parkedAt parked
    obtain ⟨u, runs, parkedAtEnd, rest⟩ := ih t stillParked
    exact ⟨u, (core_run_succ completes).trans runs, parkedAtEnd, (first.trans rest).mono (by simp) (by simp)⟩

end Sys2Proof.Machine
end
